-- ==== Sys2Proof/Word.lean ====
section
/-! DEFINITION. The bit vectors of the block, each under the name the spec gives its use
(spec/00_scope.md R7: every value is an unsigned bit vector of a stated width). -/

namespace Sys2Proof

/-- A cell index, 7 bits (spec/20_memory.md R51, spec/30_encoding.md R81). -/
abbrev Addr := BitVec 7

/-- The value of a cache cell, 16 bits (spec/10_state.md R21). -/
abbrev Value := BitVec 16

/-- A clock or a rate in hertz, 32 bits (spec/10_state.md R26, spec/41_clock_coefficient.md R140). -/
abbrev Hz := BitVec 32

/-- One byte of a frame (spec/30_encoding.md R81). -/
abbrev Byte := BitVec 8

/-- The command word `CW` (spec/30_encoding.md R82). -/
abbrev CmdWord := BitVec 72

/-- The response word `RW` (spec/30_encoding.md R87). -/
abbrev RspWord := BitVec 48

end Sys2Proof
end

