-- ==== Sys2Proof/Config.lean ====
section
/-! DEFINITION. The configuration `Cfg` of the block (spec/00_scope.md R4) and the constants of the pattern
table that the spec fixes. Nothing in `Cfg` changes at run time; State carries one as plain data. -/

namespace Sys2Proof

/-- One row of the coefficient table (spec/41_clock_coefficient.md R140). -/
structure CoeffRow where
  clk  : Hz
  rate : Hz
  fs   : BitVec 16
  sr   : BitVec 4
  bosr : Bool
  usb  : Bool
  deriving DecidableEq, Repr

/-- The parameters of the block (spec/00_scope.md R4), each under the spec's name for it. -/
structure Cfg where
  /-- `N`, the number of cache cells. -/
  n           : Nat
  /-- `RST`, the reset pseudo-register. -/
  rst         : Addr
  /-- `PWR`, the power register. -/
  pwr         : Addr
  /-- `ACT`, the stream-active register. -/
  act         : Addr
  /-- `IFACE`, the interface register. -/
  iface       : Addr
  /-- `SRATE`, the sample-rate register. -/
  srate       : Addr
  /-- `DIG`, the digital-path register. -/
  dig         : Addr
  /-- `INVOL_L`, the first of the two input-volume registers. -/
  involL      : Addr
  /-- `INVOL_R`, the second of them. -/
  involR      : Addr
  /-- `DEFAULTS`, the power-on default of every cell, index 0 first. -/
  defaults    : List Value
  /-- `COEFF`, the coefficient table in declaration order. -/
  coeff       : List CoeffRow
  /-- `STANDBY_MASK`, the standby bit of the power register. -/
  standbyMask : Value
  /-- `MUTE_MASK`, the mute bit of the digital-path register. -/
  muteMask    : Value
  /-- `UPDATE_MASK`, the update bit of the input-volume registers. -/
  updateMask  : Value
  /-- `PAT_FMT[LJ]`. -/
  fmtLJ       : Value
  /-- `PAT_FMT[DSPA]`. -/
  fmtDspA     : Value
  /-- `PAT_FMT[DSPB]`. -/
  fmtDspB     : Value
  /-- `PAT_POL[10]`: the bit clock alone inverted. -/
  polBit      : Value
  /-- `PAT_POL[01]`: the frame clock alone inverted. -/
  polFrame    : Value
  /-- `PAT_POL[11]`: both clocks inverted. -/
  polBoth     : Value
  /-- `PAT_W[20]`. -/
  w20         : Value
  deriving DecidableEq, Repr

namespace Pat

/-! The patterns that are the same in every block (spec/00_scope.md R4, "fixed by source"). -/

/-- `PAT_MASTER`. -/
def master : Value := 0x0040#16
/-- `PAT_FMT[I2S]`. -/
def fmtI2S : Value := 0x0002#16
/-- `PAT_FMT[RJ]`. -/
def fmtRJ : Value := 0x0000#16
/-- `PAT_POL[00]`. -/
def polNone : Value := 0x0000#16
/-- `PAT_W[16]`. -/
def w16 : Value := 0x0000#16
/-- `PAT_W[24]`. -/
def w24 : Value := 0x0008#16
/-- `PWR_DOWN_ALL`. -/
def pwrDownAll : Value := 0xffff#16

end Pat

/-- The two rows every `COEFF` holds (spec/41_clock_coefficient.md R142). -/
def attestedRows : List CoeffRow :=
  [⟨12288000#32, 48000#32, 256#16, 0x0#4, false, false⟩,
   ⟨11289600#32, 44100#32, 256#16, 0x8#4, false, false⟩]

end Sys2Proof
end

