-- ==== Sys2Proof/Syntax.lean ====
section
/-! DEFINITION. The commands of RSC-CMD version 1 (spec/30_encoding.md R83), one constructor for each row of
spec/opcode_table.json, and the enumerations their operands name. Every operand has exactly the width the
command word gives it (R84), so each term of `Instr` is a legal command. -/

namespace Sys2Proof

/-- The bias levels in order of power (spec/30_encoding.md R86). -/
inductive BiasLevel
  | off | standby | prepare | on
  deriving DecidableEq, Repr

/-- The frame formats of the interface configuration (spec/30_encoding.md R85). -/
inductive FrameFormat
  | i2s | leftJustified | rightJustified | dspA | dspB
  deriving DecidableEq, Repr

/-- The sample widths of the interface configuration (spec/30_encoding.md R85). -/
inductive SampleWidth
  | w16 | w20 | w24
  deriving DecidableEq, Repr

/-- The composer's input (spec/42_interface_format.md R160). -/
structure InterfaceConfig where
  masterMode       : Bool
  frameFormat      : FrameFormat
  bitClockInvert   : Bool
  frameClockInvert : Bool
  sampleWidth      : SampleWidth
  deriving DecidableEq, Repr

/-- One command. A cfg operand stays the byte of the command word, because a byte that names no format is a
legal command that answers `InvalidFormat` (spec/30_encoding.md R90 (c)). -/
inductive Instr
  | attach  (clockHz : Hz)
  | detach
  | getreg  (addr : Addr)
  | setreg  (addr : Addr) (value : Value)
  | reset
  | setfmt  (cfg : BitVec 8)
  | setrate (strict : Bool) (clockHz rateHz : Hz)
  | setmute (mute : Bool)
  | setbias (level : BiasLevel)
  | suspend
  | resume
  | resolve (strict : Bool) (clockHz rateHz : Hz)
  | compose (cfg : BitVec 8)
  | getstat (sel : Bool)
  | getconf (addr : Addr)
  deriving DecidableEq, Repr

/-- The pseudo-instruction MUTE (spec/30_encoding.md R94). -/
def Instr.mute : Instr := .setmute true

/-- The pseudo-instruction UNMUTE (spec/30_encoding.md R94). -/
def Instr.unmute : Instr := .setmute false

end Sys2Proof
end

