-- ==== Sys2Proof/WellFormed.lean ====
section
/-! DEFINITION. When a configuration is well formed (spec/00_scope.md R5), one named check for each clause.
A command needs no such check: its operands carry their widths (Syntax.lean), and which command words are
legal is the decoder's business (Decode.lean). -/

namespace Sys2Proof

/-- Exactly one bit of `v` is set. -/
def oneBit (v : Value) : Bool := v != 0#16 && (v &&& (v - 1#16)) == 0#16

/-- No two entries of the list are equal. -/
def allDistinct : List Value → Bool
  | []      => true
  | v :: vs => !vs.contains v && allDistinct vs

namespace Cfg

/-- The named addresses other than `RST`. -/
def named (c : Cfg) : List Addr :=
  [c.pwr, c.act, c.iface, c.srate, c.dig, c.involL, c.involR]

/-- R5 (a), and the shape R4 gives `DEFAULTS`: one value for each cell. -/
def wfCount (c : Cfg) : Bool := 1 ≤ c.n && c.n ≤ 128 && c.defaults.length == c.n

/-- R5 (b): every named address is below `N`. -/
def wfRange (c : Cfg) : Bool := (c.rst :: c.named).all fun a => decide (a.toNat < c.n)

/-- R5 (c): `RST` is none of the others, `PWR` is not `ACT`, `INVOL_L` is not `INVOL_R`. -/
def wfApart (c : Cfg) : Bool :=
  !c.named.contains c.rst && c.pwr != c.act && c.involL != c.involR

/-- The first row that holds a key, if any. -/
def firstRow (rows : List CoeffRow) (clk rate : Hz) : Option CoeffRow :=
  rows.find? fun r => r.clk == clk && r.rate == rate

/-- R5 (d): 1 to 256 rows, and each attested row is the first one with its key. -/
def wfCoeff (c : Cfg) : Bool :=
  1 ≤ c.coeff.length && c.coeff.length ≤ 256 &&
    attestedRows.all fun r => firstRow c.coeff r.clk r.rate == some r

/-- R5 (e): the formats differ, the polarities differ, and the 20-bit width sets one bit that the 24-bit
width does not. -/
def wfPatterns (c : Cfg) : Bool :=
  allDistinct [Pat.fmtI2S, c.fmtLJ, Pat.fmtRJ, c.fmtDspA, c.fmtDspB] &&
    allDistinct [Pat.polNone, c.polBit, c.polFrame, c.polBoth] &&
    oneBit c.w20 && c.w20 != Pat.w24

/-- R5 (f): each mask has exactly one bit set. -/
def wfMasks (c : Cfg) : Bool := oneBit c.standbyMask && oneBit c.muteMask && oneBit c.updateMask

/-- The configuration is well formed (R5); the block gives no meaning to any other. -/
def wf (c : Cfg) : Bool :=
  c.wfCount && c.wfRange && c.wfApart && c.wfCoeff && c.wfPatterns && c.wfMasks

end Cfg

end Sys2Proof
end

