-- ==== Sys2Proof/Decode.lean ====
section
/-! DEFINITION. The decoder of the command word and, after it, the encoder, both from the opcode map of
spec/30_encoding.md R83. The decoder is total: a word it rejects is one that R90 (a) or (b) makes illegal. -/

namespace Sys2Proof

/-- Why a command word is illegal (spec/30_encoding.md R90). -/
inductive Reject
  /-- R90 (a): `op = 0x0`. -/
  | reservedOpcode
  /-- R90 (b): a must-be-zero field, or a must-be-zero part of one, is not zero. -/
  | nonzeroReserved
  deriving DecidableEq, Repr

namespace CmdWord

/-! The four fields of the command word (spec/30_encoding.md R82). -/

/-- `op`, bits 71:68. -/
def op (w : CmdWord) : BitVec 4 := w.extractLsb' 68 4
/-- `fl`, bits 67:64. -/
def fl (w : CmdWord) : BitVec 4 := w.extractLsb' 64 4
/-- `A`, bits 63:32. -/
def opA (w : CmdWord) : BitVec 32 := w.extractLsb' 32 32
/-- `B`, bits 31:0. -/
def opB (w : CmdWord) : BitVec 32 := w.extractLsb' 0 32

/-- The word with the given fields. -/
def pack (op fl : BitVec 4) (a b : BitVec 32) : CmdWord :=
  (op ++ fl ++ a ++ b).setWidth 72

end CmdWord

/-- The bias level a 2-bit code names; every code names one (spec/30_encoding.md R86). -/
def BiasLevel.ofCode (b : BitVec 2) : BiasLevel :=
  if b = 0#2 then .off else if b = 1#2 then .standby else if b = 2#2 then .prepare else .on

/-- The 2-bit code of a bias level (spec/30_encoding.md R86). -/
def BiasLevel.code : BiasLevel → BitVec 2
  | .off => 0#2
  | .standby => 1#2
  | .prepare => 2#2
  | .on => 3#2

/-- The command, if the fields that must be zero are. -/
def whenZero (zero : Bool) (i : Instr) : Except Reject Instr :=
  if zero then .ok i else .error .nonzeroReserved

/-- The operands of the command with opcode `op`, and the check of its must-be-zero fields
(spec/30_encoding.md R83, R90). -/
def decodeFields (op fl : BitVec 4) (a b : BitVec 32) : Except Reject Instr :=
  match op.toNat with
  | 0x1 => whenZero (fl == 0#4 && b == 0#32) (.attach a)
  | 0x2 => whenZero (fl == 0#4 && a == 0#32 && b == 0#32) .detach
  | 0x3 => whenZero (fl == 0#4 && a == 0#32 && b.extractLsb' 7 25 == 0#25) (.getreg (b.extractLsb' 0 7))
  | 0x4 => whenZero (fl == 0#4 && a.extractLsb' 7 25 == 0#25 && b.extractLsb' 16 16 == 0#16)
      (.setreg (a.extractLsb' 0 7) (b.extractLsb' 0 16))
  | 0x5 => whenZero (fl == 0#4 && a == 0#32 && b == 0#32) .reset
  | 0x6 => whenZero (fl == 0#4 && a == 0#32 && b.extractLsb' 8 24 == 0#24) (.setfmt (b.extractLsb' 0 8))
  | 0x7 => whenZero (fl.extractLsb' 1 3 == 0#3) (.setrate (fl.getLsbD 0) a b)
  | 0x8 => whenZero (fl == 0#4 && a == 0#32 && b.extractLsb' 1 31 == 0#31) (.setmute (b.getLsbD 0))
  | 0x9 => whenZero (fl == 0#4 && a == 0#32 && b.extractLsb' 2 30 == 0#30)
      (.setbias (BiasLevel.ofCode (b.extractLsb' 0 2)))
  | 0xA => whenZero (fl == 0#4 && a == 0#32 && b == 0#32) .suspend
  | 0xB => whenZero (fl == 0#4 && a == 0#32 && b == 0#32) .resume
  | 0xC => whenZero (fl.extractLsb' 1 3 == 0#3) (.resolve (fl.getLsbD 0) a b)
  | 0xD => whenZero (fl == 0#4 && a == 0#32 && b.extractLsb' 8 24 == 0#24) (.compose (b.extractLsb' 0 8))
  | 0xE => whenZero (fl == 0#4 && a == 0#32 && b.extractLsb' 1 31 == 0#31) (.getstat (b.getLsbD 0))
  | 0xF => whenZero (fl == 0#4 && a == 0#32 && b.extractLsb' 7 25 == 0#25) (.getconf (b.extractLsb' 0 7))
  | _   => .error .reservedOpcode

/-- The command a command word stands for (spec/30_encoding.md R83, R90). -/
def decode (w : CmdWord) : Except Reject Instr := decodeFields w.op w.fl w.opA w.opB

/-- One bit as the low bit of a field of `k` bits, the rest zero. -/
def boolWord (k : Nat) (b : Bool) : BitVec k := (BitVec.ofBool b).setWidth k

/-- The command word of a command (spec/30_encoding.md R83). -/
def encode : Instr → CmdWord
  | .attach clk            => CmdWord.pack 0x1#4 0#4 clk 0#32
  | .detach                => CmdWord.pack 0x2#4 0#4 0#32 0#32
  | .getreg a              => CmdWord.pack 0x3#4 0#4 0#32 (a.setWidth 32)
  | .setreg a v            => CmdWord.pack 0x4#4 0#4 (a.setWidth 32) (v.setWidth 32)
  | .reset                 => CmdWord.pack 0x5#4 0#4 0#32 0#32
  | .setfmt c              => CmdWord.pack 0x6#4 0#4 0#32 (c.setWidth 32)
  | .setrate strict clk r  => CmdWord.pack 0x7#4 (boolWord 4 strict) clk r
  | .setmute m             => CmdWord.pack 0x8#4 0#4 0#32 (boolWord 32 m)
  | .setbias l             => CmdWord.pack 0x9#4 0#4 0#32 (l.code.setWidth 32)
  | .suspend               => CmdWord.pack 0xA#4 0#4 0#32 0#32
  | .resume                => CmdWord.pack 0xB#4 0#4 0#32 0#32
  | .resolve strict clk r  => CmdWord.pack 0xC#4 (boolWord 4 strict) clk r
  | .compose c             => CmdWord.pack 0xD#4 0#4 0#32 (c.setWidth 32)
  | .getstat sel           => CmdWord.pack 0xE#4 0#4 0#32 (boolWord 32 sel)
  | .getconf a             => CmdWord.pack 0xF#4 0#4 0#32 (a.setWidth 32)

/-- The opcode of a command (spec/30_encoding.md R83). -/
def Instr.opcode : Instr → BitVec 4
  | .attach ..  => 0x1#4
  | .detach     => 0x2#4
  | .getreg ..  => 0x3#4
  | .setreg ..  => 0x4#4
  | .reset      => 0x5#4
  | .setfmt ..  => 0x6#4
  | .setrate .. => 0x7#4
  | .setmute .. => 0x8#4
  | .setbias .. => 0x9#4
  | .suspend    => 0xA#4
  | .resume     => 0xB#4
  | .resolve .. => 0xC#4
  | .compose .. => 0xD#4
  | .getstat .. => 0xE#4
  | .getconf .. => 0xF#4

/-- The `match` and `mask` of the command's row in spec/opcode_table.json (spec/30_encoding.md R90 (g)). -/
structure TableRow where
  pattern : CmdWord
  mask    : CmdWord
  deriving DecidableEq, Repr

/-- The row of spec/opcode_table.json a command belongs to. -/
def Instr.row : Instr → TableRow
  | .attach ..  => ⟨0x100000000000000000#72, 0xFF00000000FFFFFFFF#72⟩
  | .detach     => ⟨0x200000000000000000#72, 0xFFFFFFFFFFFFFFFFFF#72⟩
  | .getreg ..  => ⟨0x300000000000000000#72, 0xFFFFFFFFFFFFFFFF80#72⟩
  | .setreg ..  => ⟨0x400000000000000000#72, 0xFFFFFFFF80FFFF0000#72⟩
  | .reset      => ⟨0x500000000000000000#72, 0xFFFFFFFFFFFFFFFFFF#72⟩
  | .setfmt ..  => ⟨0x600000000000000000#72, 0xFFFFFFFFFFFFFFFF00#72⟩
  | .setrate .. => ⟨0x700000000000000000#72, 0xFE0000000000000000#72⟩
  | .setmute .. => ⟨0x800000000000000000#72, 0xFFFFFFFFFFFFFFFFFE#72⟩
  | .setbias .. => ⟨0x900000000000000000#72, 0xFFFFFFFFFFFFFFFFFC#72⟩
  | .suspend    => ⟨0xA00000000000000000#72, 0xFFFFFFFFFFFFFFFFFF#72⟩
  | .resume     => ⟨0xB00000000000000000#72, 0xFFFFFFFFFFFFFFFFFF#72⟩
  | .resolve .. => ⟨0xC00000000000000000#72, 0xFE0000000000000000#72⟩
  | .compose .. => ⟨0xD00000000000000000#72, 0xFFFFFFFFFFFFFFFF00#72⟩
  | .getstat .. => ⟨0xE00000000000000000#72, 0xFFFFFFFFFFFFFFFFFE#72⟩
  | .getconf .. => ⟨0xF00000000000000000#72, 0xFFFFFFFFFFFFFFFF80#72⟩

/-- The word matches the row: it has the row's pattern on the row's mask. -/
def TableRow.fits (r : TableRow) (w : CmdWord) : Bool := (w &&& r.mask) == r.pattern

/-- The command word whose bits are `w`, of which the lowest `nbits` count: the table numbers the bits of the
one 72-bit word, bit 0 of it `B[0]` (spec/00_scope.md R7, spec/30_encoding.md R82; log 10). -/
def tableWord (nbits w : Nat) : CmdWord := BitVec.ofNat 72 (w % 2 ^ nbits)

/-- The command the decoder reads from a word numbered as spec/opcode_table.json numbers it. -/
def decodeTableWord (nbits w : Nat) : Option Instr :=
  match decode (tableWord nbits w) with
  | .ok i    => some i
  | .error _ => none

end Sys2Proof
end

