-- ==== Sys2Proof/Machine/Reference.lean ====
section
/-! DEFINITION. The reference configuration `CFG_REF` (spec/00_scope.md R6) with its coefficient table
(spec/41_clock_coefficient.md R143), which the reset state carries. PRESUMED: the spec marks these values
general knowledge, not in its source (spec/93_implementation_defined.md G1, G2; log 1). -/

namespace Sys2Proof

namespace Cfg

/-- `CFG_REF.COEFF` (spec/41_clock_coefficient.md R143); rows 0 and 14 are the attested ones. -/
def refCoeff : List CoeffRow :=
  [⟨12288000#32, 48000#32,  256#16, 0x0#4, false, false⟩,
   ⟨18432000#32, 48000#32,  384#16, 0x0#4, true,  false⟩,
   ⟨12000000#32, 48000#32,  250#16, 0x0#4, false, true⟩,
   ⟨12288000#32, 32000#32,  384#16, 0x6#4, false, false⟩,
   ⟨18432000#32, 32000#32,  576#16, 0x6#4, true,  false⟩,
   ⟨12000000#32, 32000#32,  375#16, 0x6#4, false, true⟩,
   ⟨12288000#32,  8000#32, 1536#16, 0x3#4, false, false⟩,
   ⟨18432000#32,  8000#32, 2304#16, 0x3#4, true,  false⟩,
   ⟨11289600#32,  8000#32, 1408#16, 0xb#4, false, false⟩,
   ⟨16934400#32,  8000#32, 2112#16, 0xb#4, true,  false⟩] ++
  [⟨12000000#32,  8000#32, 1500#16, 0x3#4, false, true⟩,
   ⟨12288000#32, 96000#32,  128#16, 0x7#4, false, false⟩,
   ⟨18432000#32, 96000#32,  192#16, 0x7#4, true,  false⟩,
   ⟨12000000#32, 96000#32,  125#16, 0x7#4, false, true⟩,
   ⟨11289600#32, 44100#32,  256#16, 0x8#4, false, false⟩,
   ⟨16934400#32, 44100#32,  384#16, 0x8#4, true,  false⟩,
   ⟨12000000#32, 44100#32,  272#16, 0x8#4, true,  true⟩,
   ⟨11289600#32, 88200#32,  128#16, 0xf#4, false, false⟩,
   ⟨16934400#32, 88200#32,  192#16, 0xf#4, true,  false⟩,
   ⟨12000000#32, 88200#32,  136#16, 0xf#4, true,  true⟩]

/-- `CFG_REF` (spec/00_scope.md R6). -/
def ref : Cfg where
  n := 16
  rst := 15#7
  pwr := 6#7
  act := 9#7
  iface := 7#7
  srate := 8#7
  dig := 5#7
  involL := 0#7
  involR := 1#7
  defaults :=
    [0x0097#16, 0x0097#16, 0x0079#16, 0x0079#16, 0x000a#16, 0x0008#16, 0x009f#16, 0x000a#16,
     0x0000#16, 0x0000#16, 0x0000#16, 0x0000#16, 0x0000#16, 0x0000#16, 0x0000#16, 0x0000#16]
  coeff := refCoeff
  standbyMask := 0x0040#16
  muteMask := 0x0008#16
  updateMask := 0x0100#16
  fmtLJ := 0x0001#16
  fmtDspA := 0x0003#16
  fmtDspB := 0x0013#16
  polBit := 0x0080#16
  polFrame := 0x0010#16
  polBoth := 0x0090#16
  w20 := 0x0004#16

end Cfg

end Sys2Proof
end

