-- ==== Sys2Proof/Machine/State.lean ====
section
/-! DEFINITION. The state of the block as plain data: the CodecState with its two additions (spec/10_state.md
R20), the read-only tables (R30), the hidden sequencer (R32), the ghost `TXLOG` (R33), the response port
(spec/70_reset_and_hazards.md R278), and the inputs from outside that have not happened yet. -/

namespace Sys2Proof.Machine

/-- The status of a response (spec/30_encoding.md R88). -/
inductive Status
  | ok | outOfRange | ioError | invalidFormat | unsupportedRate | badState | illegalCommand
  deriving DecidableEq, Repr

/-- The fields of a response word that are not always zero (spec/30_encoding.md R87). -/
structure Response where
  status : Status
  aux    : BitVec 8
  data   : BitVec 32
  deriving DecidableEq, Repr

/-- A register frame (spec/30_encoding.md R81). -/
structure Frame where
  byte0 : Byte
  byte1 : Byte
  deriving DecidableEq, Repr

/-- An entry of `TXLOG`: a frame and whether its send succeeded (spec/10_state.md R33). -/
structure TxEntry where
  frame : Frame
  ok    : Bool
  deriving DecidableEq, Repr

/-- What the transport does next: answer the frame presented with `(err, acc)` (spec/20_memory.md R57), or
let time pass first ("the answer may take any time"; log 2). -/
inductive TxEvent
  | answer (err : Bool) (acc : BitVec 2)
  | delay
  deriving DecidableEq, Repr

/-- What the host does next on the ports of spec/70_reset_and_hazards.md R278: offer a command word, or assert
`rst` (log 3). -/
inductive HostEvent
  | command (w : CmdWord)
  | hardwareReset
  deriving DecidableEq, Repr

/-- The value a `Program` step sends to its address: a constant, or the checked read of that address with a
mask set or cleared (spec/40_cache_write_protocol.md R114, R122, spec/43_bias_sequencer.md R183, R185). -/
inductive Source
  | const (v : Value)
  | setBits (mask : Value)
  | clearBits (mask : Value)
  deriving DecidableEq, Repr

/-- What a failed send does to the command: end it (spec/40_cache_write_protocol.md R115), be recorded and end
the bias step it stands in (spec/44_power_lifecycle.md R204), or be recorded only (R202). -/
inductive OnFail
  | abort | endStage | record
  deriving DecidableEq, Repr

/-- One step of a command's pseudocode (spec/10_state.md R32, `seq`). -/
inductive MicroOp
  /-- `Seed` (spec/44_power_lifecycle.md R206). -/
  | seed
  /-- `sysclk <- clk`. -/
  | setSysclk (clk : Hz)
  /-- `pending <- bias`. -/
  | savePending
  /-- The cache write of a `Program` (spec/40_cache_write_protocol.md R112, R114). -/
  | write (a : Addr) (src : Source)
  /-- The frame of a cell and its answer (spec/00_scope.md R9): the second half of a `Program`, or one turn of
  the replay's loop. -/
  | send (a : Addr) (f : OnFail)
  /-- The start of the next step of `RESUME` (spec/44_power_lifecycle.md R204). -/
  | stage
  /-- `bias <- t` (spec/43_bias_sequencer.md R182). -/
  | recordBias (t : BiasLevel)
  /-- `attached <- b`. -/
  | setAttached (b : Bool)
  deriving DecidableEq, Repr

/-- The hidden state of a command in execution (spec/10_state.md R32). -/
structure Sequencer where
  /-- `seq`: the steps of the command still to do, the next one first. -/
  todo      : List MicroOp
  /-- `fcnt`: the frames this command has had answered. -/
  fcnt      : BitVec 8
  /-- `first_fail`: the ordinal of the first failed frame of a `RESUME`. -/
  firstFail : Option (BitVec 8)
  /-- The response the command ends with when nothing fails. -/
  reply     : Response
  deriving DecidableEq, Repr

/-- The block never stops with a fault: every error of the spec is the status of a response and the block takes
the next command (spec/60_exceptions.md R230, R231), so no step raises one and this type has no constructor. -/
inductive Fault
  deriving DecidableEq, Repr

/-- Why a step has no meaning. -/
inductive Refusal
  /-- Raised by an arm of `exec` whose instruction has no meaning yet. Safe. -/
  | notModelled (mnemonic : String)
  /-- Raised by every command and every step of a block whose configuration is not well formed
  (spec/00_scope.md R5: "a model refuses (gives no meaning to) any other"). Safe. -/
  | illFormedCfg
  /-- Raised by a command handed to a block that is executing another one, which the command port never does
  (spec/20_memory.md R59, spec/93_implementation_defined.md U25). Safe. -/
  | notReady
  deriving DecidableEq, Repr

/-- The state of the block. -/
structure State where
  /-- The read-only tables and parameters (spec/10_state.md R30); no step changes them. -/
  cfg      : Cfg
  /-- `x[0..N-1]`, the cells of the shadow cache (R21). -/
  x        : List Value
  /-- `conf[0..N-1]`, the confirmed flags (R29). -/
  conf     : List Bool
  /-- `bias` (R24). -/
  bias     : BiasLevel
  /-- `pending`, the pendingResumeBias (R25). -/
  pending  : BiasLevel
  /-- `sysclk` (R26). -/
  sysclk   : Hz
  /-- `attached` (R28). -/
  attached : Bool
  /-- The hidden sequencer (R32); `none` is idle. -/
  seq      : Option Sequencer
  /-- `TXLOG` (R33), ghost state: the frames answered since hardware reset, oldest first. -/
  txlog    : List TxEntry
  /-- The response port: the response to the command accepted last, once it has ended (log 6). -/
  rsp      : Option Response
  /-- Input: what the host does from here on, the next event first (log 3). -/
  host     : List HostEvent
  /-- Input: what the transport does from here on, the next event first (log 2). -/
  answers  : List TxEvent
  deriving DecidableEq, Repr

/-- The cache has one cell and one confirmed flag for each address below `N`, so that equal caches are equal
lists (spec/10_state.md R21, R29; log 11). -/
def Memory.wf (s : State) : Bool := s.x.length == s.cfg.n && s.conf.length == s.cfg.n

/-- The state after hardware reset of a block with configuration `c`, nothing waiting at its ports
(spec/10_state.md R35). -/
def State.resetWith (c : Cfg) : State where
  cfg := c
  x := c.defaults
  conf := List.replicate c.n false
  bias := .off
  pending := .off
  sysclk := 0#32
  attached := false
  seq := none
  txlog := []
  rsp := none
  host := []
  answers := []

/-- The state after hardware reset of the block with the reference configuration (log 1). -/
def State.reset : State := State.resetWith Cfg.ref

end Sys2Proof.Machine
end

