-- ==== Sys2Proof/Machine/Operands.lean ====
section
/-! DEFINITION. The operand forms of the commands and the values composed from them: the fields of the cfg byte
(spec/30_encoding.md R85), the interface patterns (spec/42_interface_format.md R162), the register frame (R81),
the sample-rate register value (R92) and the response word (R87 to R89). -/

namespace Sys2Proof.Machine

/-! ## The cfg byte -/

/-- `cfg[3:1]` (spec/30_encoding.md R85); `none` for the codes 5, 6 and 7. -/
def formatOfCode (ff : BitVec 3) : Option FrameFormat :=
  match ff.toNat with
  | 0 => some .i2s
  | 1 => some .leftJustified
  | 2 => some .rightJustified
  | 3 => some .dspA
  | 4 => some .dspB
  | _ => none

/-- `cfg[7:6]` (spec/30_encoding.md R85); `none` for the code 3. -/
def widthOfCode (w : BitVec 2) : Option SampleWidth :=
  match w.toNat with
  | 0 => some .w16
  | 1 => some .w20
  | 2 => some .w24
  | _ => none

/-- The interface configuration a cfg byte encodes (spec/30_encoding.md R85, spec/42_interface_format.md R160);
`none` is a byte that names no format or no width (R163). -/
def interfaceConfig (cfg : BitVec 8) : Option InterfaceConfig :=
  match formatOfCode (cfg.extractLsb' 1 3), widthOfCode (cfg.extractLsb' 6 2) with
  | some ff, some w => some ⟨cfg.getLsbD 0, ff, cfg.getLsbD 4, cfg.getLsbD 5, w⟩
  | _, _ => none

/-- The 3-bit code of a frame format (spec/30_encoding.md R85). -/
def FrameFormat.code : FrameFormat → BitVec 3
  | .i2s => 0#3
  | .leftJustified => 1#3
  | .rightJustified => 2#3
  | .dspA => 3#3
  | .dspB => 4#3

/-- The 2-bit code of a sample width (spec/30_encoding.md R85). -/
def SampleWidth.code : SampleWidth → BitVec 2
  | .w16 => 0#2
  | .w20 => 1#2
  | .w24 => 2#2

/-- The cfg byte of an interface configuration (spec/30_encoding.md R85). -/
def cfgByte (ic : InterfaceConfig) : BitVec 8 :=
  (SampleWidth.code ic.sampleWidth ++ BitVec.ofBool ic.frameClockInvert ++ BitVec.ofBool ic.bitClockInvert ++
    FrameFormat.code ic.frameFormat ++ BitVec.ofBool ic.masterMode).setWidth 8

/-! ## The pattern table (spec/42_interface_format.md R162) -/

/-- `PAT_FMT[ff]`. -/
def patFmt (c : Cfg) : FrameFormat → Value
  | .i2s => Pat.fmtI2S
  | .leftJustified => c.fmtLJ
  | .rightJustified => Pat.fmtRJ
  | .dspA => c.fmtDspA
  | .dspB => c.fmtDspB

/-- `PAT_POL[{bci, fci}]`: a table of four, not an OR of two. -/
def patPol (c : Cfg) (bci fci : Bool) : Value :=
  match bci, fci with
  | false, false => Pat.polNone
  | true, false => c.polBit
  | false, true => c.polFrame
  | true, true => c.polBoth

/-- `PAT_W[w]`. -/
def patWidth (c : Cfg) : SampleWidth → Value
  | .w16 => Pat.w16
  | .w20 => c.w20
  | .w24 => Pat.w24

/-- The interface register value of a configuration (spec/42_interface_format.md R161). -/
def composeConfig (c : Cfg) (ic : InterfaceConfig) : Value :=
  (if ic.masterMode then Pat.master else 0#16) ||| patFmt c ic.frameFormat |||
    patPol c ic.bitClockInvert ic.frameClockInvert ||| patWidth c ic.sampleWidth

/-- `Compose` (spec/42_interface_format.md R161); `none` raises `InvalidFormat`. -/
def composeByte (c : Cfg) (cfg : BitVec 8) : Option Value :=
  (interfaceConfig cfg).map (composeConfig c)

/-! ## The register frame -/

/-- `Frame(addr, v)` (spec/30_encoding.md R81): `v[15:9]` is not in it. -/
def frameOf (a : Addr) (v : Value) : Frame where
  byte0 := (a.setWidth 8 <<< 1) ||| (v.extractLsb' 8 1).setWidth 8
  byte1 := v.extractLsb' 0 8

/-- The address a frame is for: bits 7:1 of its first byte (spec/10_state.md R31 (b)). -/
def Frame.addr (f : Frame) : Addr := f.byte0.extractLsb' 1 7

/-- The 9 data bits of a frame (spec/10_state.md R31 (b)). -/
def Frame.data (f : Frame) : BitVec 9 := (f.byte0.extractLsb' 0 1 ++ f.byte1).setWidth 9

/-- The frame on the transport port, `{byte0, byte1}` (spec/30_encoding.md R81). -/
def Frame.word (f : Frame) : BitVec 16 := (f.byte0 ++ f.byte1).setWidth 16

/-- A send succeeds exactly when no failure is reported and two bytes were accepted
(spec/00_scope.md R9, spec/20_memory.md R57). -/
def txOk (err : Bool) (acc : BitVec 2) : Bool := !err && acc == 2#2

/-! ## Coefficient rows -/

/-- `SrValue(row)` (spec/30_encoding.md R92). -/
def srValue (r : CoeffRow) : Value :=
  (r.sr ++ BitVec.ofBool r.bosr ++ BitVec.ofBool r.usb).setWidth 16

/-- The response data of a row (spec/30_encoding.md R89). -/
def rowData (r : CoeffRow) : BitVec 32 :=
  (r.fs ++ 0#10 ++ r.sr ++ BitVec.ofBool r.bosr ++ BitVec.ofBool r.usb).setWidth 32

/-- The first row with the key `(clk, rate)` among `rows`, with its index counted from `i`
(spec/41_clock_coefficient.md R141). -/
def firstMatch (clk rate : Hz) : Nat → List CoeffRow → Option (Nat × CoeffRow)
  | _, [] => none
  | i, r :: rows => if r.clk = clk ∧ r.rate = rate then some (i, r) else firstMatch clk rate (i + 1) rows

/-- `Resolve(clk, rate, strict)` (spec/41_clock_coefficient.md R141); `none` raises `UnsupportedRate`. -/
def resolveRow (c : Cfg) (clk rate : Hz) (strict : Bool) : Option (Nat × CoeffRow) :=
  match firstMatch clk rate 0 c.coeff with
  | some m => some m
  | none => if strict then none else c.coeff.head?.map fun r => (0, r)

/-! ## The response word -/

/-- The 4-bit code of a status (spec/30_encoding.md R88). -/
def Status.code : Status → BitVec 4
  | .ok => 0x0#4
  | .outOfRange => 0x1#4
  | .ioError => 0x2#4
  | .invalidFormat => 0x3#4
  | .unsupportedRate => 0x4#4
  | .badState => 0x5#4
  | .illegalCommand => 0x6#4

/-- `RW` (spec/30_encoding.md R87). -/
def Response.word (r : Response) : RspWord :=
  (r.status.code ++ 0#4 ++ r.aux ++ r.data).setWidth 48

/-- The response of a command that succeeds and reports nothing (spec/30_encoding.md R89). -/
def Response.okay : Response := ⟨.ok, 0#8, 0#32⟩

/-- The response of an error: `data` is 0 (spec/30_encoding.md R89, spec/60_exceptions.md R231). -/
def Response.error (st : Status) (aux : BitVec 8) : Response := ⟨st, aux, 0#32⟩

/-- The response that reports a resolved row (spec/30_encoding.md R89). -/
def Response.row (m : Nat × CoeffRow) : Response := ⟨.ok, BitVec.ofNat 8 m.1, rowData m.2⟩

/-- The response that reports a composed value (spec/30_encoding.md R89). -/
def Response.value (v : Value) : Response := ⟨.ok, 0#8, v.setWidth 32⟩

/-- The `GETSTAT` data with `sel = 0` (spec/30_encoding.md R89, spec/44_power_lifecycle.md R209). -/
def statusData (attached : Bool) (pending bias : BiasLevel) : BitVec 32 :=
  (0#27 ++ BitVec.ofBool attached ++ pending.code ++ bias.code).setWidth 32

end Sys2Proof.Machine
end

