-- ==== Sys2Proof/Machine/Flags.lean ====
section
/-! DEFINITION. The flags of the block: the confirmed flag of each cell (spec/10_state.md R29). There are no
condition codes, no carry and no predicates. -/

namespace Sys2Proof.Machine

/-- `conf[a]`; an address with no cell has no flag and reads false. -/
def State.confAt (s : State) (a : Addr) : Bool := s.conf.getD a.toNat false

/-- The flags after a checked write of cell `a`: "cleared by every checked write" (spec/10_state.md R29). -/
def confCleared (conf : List Bool) (a : Addr) : List Bool := conf.set a.toNat false

/-- The flags after a send of cell `a`'s frame: "set by a successful send ..., cleared by a failed one"
(spec/10_state.md R29). -/
def confSent (conf : List Bool) (a : Addr) (ok : Bool) : List Bool := conf.set a.toNat ok

/-- The flags after the seed: all clear (spec/44_power_lifecycle.md R206). -/
def confSeeded (c : Cfg) : List Bool := List.replicate c.n false

end Sys2Proof.Machine
end

