-- ==== Sys2Proof/Machine/Ops.lean ====
section
/-! DEFINITION. The operations the commands are made of: the checked ports of the cache, the frame send, the
response and the raise of an error, the seed and the hardware reset, the sequencer that runs the steps of a
command, and the check that precedes every command. -/

namespace Sys2Proof.Machine

/-! ## The cache -/

/-- `x[a]`, the raw read (spec/00_scope.md R8); only meaningful where `a < N`. -/
def State.xAt (s : State) (a : Addr) : Value := s.x.getD a.toNat 0#16

/-- `MemRead(a, 2)` (spec/40_cache_write_protocol.md R111); `none` raises `OutOfRange(a)`. -/
def State.memRead (s : State) (a : Addr) : Option Value :=
  if a = s.cfg.rst then some 0#16
  else if a.toNat < s.cfg.n then some (s.xAt a)
  else none

/-- The state with `v` in cell `a` and its flag cleared. -/
def State.withCell (s : State) (a : Addr) (v : Value) : State :=
  { s with x := s.x.set a.toNat v, conf := confCleared s.conf a }

/-- `MemWrite(a, 2, v)` (spec/40_cache_write_protocol.md R112); `none` raises `OutOfRange(a)`, nothing written. -/
def State.memWrite (s : State) (a : Addr) (v : Value) : Option State :=
  if a.toNat < s.cfg.n then some (s.withCell a v) else none

/-- The value a `Program` step sends to `a`; `none` raises `OutOfRange(a)` from its read. -/
def Source.eval (s : State) (a : Addr) : Source → Option Value
  | .const v => some v
  | .setBits m => (s.memRead a).map (· ||| m)
  | .clearBits m => (s.memRead a).map (· &&& ~~~m)

/-! ## Seed, reset, responses -/

/-- `Seed` (spec/44_power_lifecycle.md R206). -/
def State.seed (s : State) : State :=
  { s with x := s.cfg.defaults, conf := confSeeded s.cfg, bias := .off, pending := .off, sysclk := 0#32 }

/-- Hardware reset (spec/70_reset_and_hazards.md R260): `Seed`, detached, the sequencer empty whatever it was
doing, no frame, no response, `TXLOG` empty. What waits outside the ports stays (log 7). -/
def State.hardwareReset (s : State) : State :=
  { s.seed with attached := false, seq := none, txlog := [], rsp := none }

/-- The command ends with the response `r`. -/
def State.respond (s : State) (r : Response) : State := { s with seq := none, rsp := some r }

/-- `raise st(aux)` (spec/60_exceptions.md R231): the command ends with the error, what was written stays. There
is no return from an error: the next command is taken as after `Ok` (R242). -/
def State.raise (s : State) (st : Status) (aux : BitVec 8) : State := s.respond (Response.error st aux)

/-! ## Sending a frame -/

/-- The state after the frame of cell `a` was answered: the entry in `TXLOG` (spec/00_scope.md R9), the flag
(spec/10_state.md R29), and the answers still to come. -/
def State.sent (s : State) (a : Addr) (ok : Bool) (rest : List TxEvent) : State :=
  { s with
    txlog := s.txlog ++ [⟨frameOf a (s.xAt a), ok⟩]
    conf := confSent s.conf a ok
    answers := rest }

/-- One more frame answered (spec/00_scope.md R9). -/
def Sequencer.counted (q : Sequencer) : Sequencer := { q with fcnt := q.fcnt + 1#8 }

/-- The frame with ordinal `fcnt` failed; only the first failure is kept (spec/44_power_lifecycle.md R202). -/
def Sequencer.noted (q : Sequencer) : Sequencer :=
  { q with firstFail := q.firstFail.or (some q.fcnt) }

/-! ## The sequencer -/

/-- What one step of a command leads to. -/
inductive OpResult
  /-- The next step follows. -/
  | go (s : State) (q : Sequencer)
  /-- The steps up to the next `stage` are left out (spec/44_power_lifecycle.md R204). -/
  | skip (s : State) (q : Sequencer)
  /-- The frame is presented and not answered. -/
  | wait
  /-- The command ends with an error. -/
  | raised (s : State) (st : Status) (aux : BitVec 8)

/-- A `Tx` of the frame of cell `a`, and what its answer does (spec/00_scope.md R9,
spec/40_cache_write_protocol.md R114, R115, spec/44_power_lifecycle.md R202, R204). -/
def sendOp (a : Addr) (f : OnFail) (s : State) (q : Sequencer) : OpResult :=
  match s.answers with
  | .answer err acc :: rest =>
    if txOk err acc then .go (s.sent a true rest) q.counted
    else match f with
      | .abort => .raised (s.sent a false rest) .ioError q.fcnt
      | .endStage => .skip (s.sent a false rest) q.noted.counted
      | .record => .go (s.sent a false rest) q.noted.counted
  | .delay :: _ => .wait
  | [] => .wait

/-- The cache write of a `Program` (spec/40_cache_write_protocol.md R112, R114). -/
def writeOp (a : Addr) (src : Source) (s : State) (q : Sequencer) : OpResult :=
  match (src.eval s a).bind (s.memWrite a) with
  | some s' => .go s' q
  | none => .raised s .outOfRange (a.setWidth 8)

/-- One step of a command's pseudocode. -/
def microOp (op : MicroOp) (s : State) (q : Sequencer) : OpResult :=
  match op with
  | .seed => .go s.seed q
  | .setSysclk clk => .go { s with sysclk := clk } q
  | .savePending => .go { s with pending := s.bias } q
  | .write a src => writeOp a src s q
  | .send a f => sendOp a f s q
  | .stage => .go s q
  | .recordBias t => .go { s with bias := t } q
  | .setAttached b => .go { s with attached := b } q

/-- The response when the last step is done: `RESUME` reports the first failure it recorded
(spec/44_power_lifecycle.md R204). -/
def Sequencer.result (q : Sequencer) : Response :=
  match q.firstFail with
  | none => q.reply
  | some k => Response.error .ioError k

/-- Run the steps in their order (spec/20_memory.md R58 (b)) until the command ends or a frame waits for its
answer; then the sequencer keeps the steps still to do, the waiting send among them. `skipping` leaves out the
steps up to the next `stage`. -/
def runOps (skipping : Bool) : List MicroOp → State → Sequencer → State
  | [], s, q => s.respond q.result
  | op :: ops, s, q =>
    if skipping && op != .stage then runOps true ops s q
    else match microOp op s q with
      | .go s' q' => runOps false ops s' q'
      | .skip s' q' => runOps true ops s' q'
      | .wait => { s with seq := some { q with todo := op :: ops } }
      | .raised s' st aux => s'.raise st aux

/-- Begin the steps of a command whose success response is `reply`; `fcnt` starts at 0
(spec/40_cache_write_protocol.md R110). -/
def State.launch (ops : List MicroOp) (reply : Response) (s : State) : State :=
  runOps false ops s ⟨[], 0#8, none, reply⟩

/-- Time passes at the transport: one `delay` is over (log 2). -/
def dropDelay : List TxEvent → List TxEvent
  | .delay :: rest => rest
  | evs => evs

/-- Go on with the command whose frame was waiting. -/
def State.goOn (s : State) (q : Sequencer) : State :=
  runOps false q.todo { s with seq := none, answers := dropDelay s.answers } q

/-! ## Steps that several commands share -/

/-- `Program(a, v)` (spec/40_cache_write_protocol.md R114): cache write, then frame, then send. -/
def program (a : Addr) (src : Source) (f : OnFail) : List MicroOp := [.write a src, .send a f]

/-- `ResetOp` (spec/40_cache_write_protocol.md R116). -/
def resetOp (c : Cfg) : List MicroOp := program c.rst (.const 0#16) .abort

/-- `BiasStep(t)` (spec/43_bias_sequencer.md R182). -/
def biasStep (c : Cfg) (t : BiasLevel) (f : OnFail) : List MicroOp :=
  match t with
  | .on => program c.pwr (.clearBits c.standbyMask) f ++ [.recordBias .on]
  | .prepare => [.recordBias .prepare]
  | .standby => program c.pwr (.setBits c.standbyMask) f ++ [.recordBias .standby]
  | .off =>
    program c.act (.const 0#16) f ++ program c.pwr (.const Pat.pwrDownAll) f ++ [.recordBias .off]

/-- The addresses of the replay: every cell but `RST`, ascending (spec/44_power_lifecycle.md R202). -/
def replayAddrs (c : Cfg) : List Addr :=
  ((List.range c.n).map (BitVec.ofNat 7)).filter (· != c.rst)

/-- `Replay` (spec/44_power_lifecycle.md R202). -/
def replay (c : Cfg) : List MicroOp := (replayAddrs c).map fun a => .send a .record

/-! ## The check before every command -/

/-- What a command needs of `attached` (spec/60_exceptions.md R236). -/
inductive Need
  | attached | detached | any
  deriving DecidableEq, Repr

/-- The lifecycle requirement holds (spec/40_cache_write_protocol.md R110). -/
def Need.met (need : Need) (attached : Bool) : Bool :=
  match need with
  | .attached => attached
  | .detached => !attached
  | .any => true

/-- A command: `Pre`, which raises `BadState` before anything is read or written
(spec/40_cache_write_protocol.md R110), then its body. The response of the command before it is gone (log 6). -/
def State.command (s : State) (need : Need) (body : State → State) : Host.Outcome State Fault Refusal :=
  if !s.cfg.wf then .refused .illFormedCfg
  else if s.seq.isSome then .refused .notReady
  else if need.met s.attached then .next (body { s with rsp := none })
  else .next (s.raise .badState 0#8)

end Sys2Proof.Machine
end

