-- ==== Sys2Proof/Machine/Format.lean ====
section
/-! DEFINITION. The interface-format commands COMPOSE and SETFMT (spec/42_interface_format.md). -/

namespace Sys2Proof.Machine

/-- COMPOSE (R164). -/
def execCompose (cfg : BitVec 8) (s : State) : Host.Outcome State Fault Refusal :=
  s.command .any fun s =>
    match composeByte s.cfg cfg with
    | some v => s.respond (Response.value v)
    | none => s.raise .invalidFormat 0#8

/-- SETFMT (R165). -/
def execSetfmt (cfg : BitVec 8) (s : State) : Host.Outcome State Fault Refusal :=
  s.command .attached fun s =>
    match composeByte s.cfg cfg with
    | some v => s.launch (program s.cfg.iface (.const v) .abort) (Response.value v)
    | none => s.raise .invalidFormat 0#8

end Sys2Proof.Machine
end

