-- ==== Sys2Proof/Machine/Power.lean ====
section
/-! DEFINITION. The power and lifecycle commands SETBIAS (spec/43_bias_sequencer.md), SUSPEND, RESUME, ATTACH,
DETACH and GETSTAT (spec/44_power_lifecycle.md). -/

namespace Sys2Proof.Machine

/-- SETBIAS (R187). -/
def execSetbias (t : BiasLevel) (s : State) : Host.Outcome State Fault Refusal :=
  s.command .attached (State.launch (biasStep s.cfg t .abort) Response.okay)

/-- SUSPEND (R201): the stream-active register is written by the force and again by the Off transition. -/
def execSuspend (s : State) : Host.Outcome State Fault Refusal :=
  s.command .attached (State.launch
    (.savePending :: program s.cfg.act (.const 0#16) .abort ++ biasStep s.cfg .off .abort) Response.okay)

/-- RESUME (R204): the replay, then Standby, then the pending level; a failure in a bias step ends that step
only. -/
def execResume (s : State) : Host.Outcome State Fault Refusal :=
  s.command .attached (State.launch
    (replay s.cfg ++ .stage :: biasStep s.cfg .standby .endStage ++
      .stage :: biasStep s.cfg s.pending .endStage) Response.okay)

/-- ATTACH (R207). -/
def execAttach (clk : Hz) (s : State) : Host.Outcome State Fault Refusal :=
  s.command .detached (State.launch
    (.seed :: .setSysclk clk :: resetOp s.cfg ++
      program s.cfg.involL (.setBits s.cfg.updateMask) .abort ++
      program s.cfg.involR (.setBits s.cfg.updateMask) .abort ++
      biasStep s.cfg .standby .abort ++ [.setAttached true]) Response.okay)

/-- DETACH (R208): no frame is sent. -/
def execDetach (s : State) : Host.Outcome State Fault Refusal :=
  s.command .attached (State.launch [.seed, .setAttached false] Response.okay)

/-- GETSTAT (R209). -/
def execGetstat (sel : Bool) (s : State) : Host.Outcome State Fault Refusal :=
  s.command .any fun s =>
    s.respond ⟨.ok, 0#8, if sel then s.sysclk else statusData s.attached s.pending s.bias⟩

end Sys2Proof.Machine
end

