-- ==== Sys2Proof/Machine/Rate.lean ====
section
/-! DEFINITION. The sample-rate commands RESOLVE and SETRATE (spec/41_clock_coefficient.md). -/

namespace Sys2Proof.Machine

/-- RESOLVE (R145). -/
def execResolve (strict : Bool) (clk rate : Hz) (s : State) : Host.Outcome State Fault Refusal :=
  s.command .any fun s =>
    match resolveRow s.cfg clk rate strict with
    | some m => s.respond (Response.row m)
    | none => s.raise .unsupportedRate 0#8

/-- SETRATE (R146): `sysclk` is recorded before the send. -/
def execSetrate (strict : Bool) (clk rate : Hz) (s : State) : Host.Outcome State Fault Refusal :=
  s.command .attached fun s =>
    match resolveRow s.cfg clk rate strict with
    | some m =>
      s.launch (.setSysclk clk :: program s.cfg.srate (.const (srValue m.2)) .abort) (Response.row m)
    | none => s.raise .unsupportedRate 0#8

end Sys2Proof.Machine
end

