-- ==== Sys2Proof/Machine/Register.lean ====
section
/-! DEFINITION. The register commands GETREG, SETREG, RESET, GETCONF and SETMUTE
(spec/40_cache_write_protocol.md). -/

namespace Sys2Proof.Machine

/-- GETREG (R117). -/
def execGetreg (a : Addr) (s : State) : Host.Outcome State Fault Refusal :=
  s.command .attached fun s =>
    match s.memRead a with
    | some v => s.respond (Response.value v)
    | none => s.raise .outOfRange (a.setWidth 8)

/-- SETREG (R118). -/
def execSetreg (a : Addr) (v : Value) (s : State) : Host.Outcome State Fault Refusal :=
  s.command .attached (State.launch (program a (.const v) .abort) Response.okay)

/-- RESET (R119). -/
def execReset (s : State) : Host.Outcome State Fault Refusal :=
  s.command .attached (State.launch (resetOp s.cfg) Response.okay)

/-- GETCONF (R120): the range check has no exception for `RST`. -/
def execGetconf (a : Addr) (s : State) : Host.Outcome State Fault Refusal :=
  s.command .attached fun s =>
    if a.toNat < s.cfg.n then s.respond ⟨.ok, 0#8, (BitVec.ofBool (s.confAt a)).setWidth 32⟩
    else s.raise .outOfRange (a.setWidth 8)

/-- SETMUTE (R122): the mute bit is set or cleared, never inverted. -/
def execSetmute (m : Bool) (s : State) : Host.Outcome State Fault Refusal :=
  let src : Source := if m then .setBits s.cfg.muteMask else .clearBits s.cfg.muteMask
  s.command .attached (State.launch (program s.cfg.dig src .abort) Response.okay)

end Sys2Proof.Machine
end

