-- ==== Sys2Proof/Machine/Dispatch.lean ====
section
/-! DEFINITION. One arm for each command. -/

namespace Sys2Proof.Machine

def exec (i : Instr) (s : State) : Host.Outcome State Fault Refusal :=
  match i with
  | .attach clockHz => Sys2Proof.Machine.execAttach clockHz s
  | .detach => Sys2Proof.Machine.execDetach s
  | .getreg addr => Sys2Proof.Machine.execGetreg addr s
  | .setreg addr value => Sys2Proof.Machine.execSetreg addr value s
  | .reset => Sys2Proof.Machine.execReset s
  | .setfmt cfg => Sys2Proof.Machine.execSetfmt cfg s
  | .setrate strict clockHz rateHz => Sys2Proof.Machine.execSetrate strict clockHz rateHz s
  | .setmute mute => Sys2Proof.Machine.execSetmute mute s
  | .setbias level => Sys2Proof.Machine.execSetbias level s
  | .suspend => Sys2Proof.Machine.execSuspend s
  | .resume => Sys2Proof.Machine.execResume s
  | .resolve strict clockHz rateHz => Sys2Proof.Machine.execResolve strict clockHz rateHz s
  | .compose cfg => Sys2Proof.Machine.execCompose cfg s
  | .getstat sel => Sys2Proof.Machine.execGetstat sel s
  | .getconf addr => Sys2Proof.Machine.execGetconf addr s

end Sys2Proof.Machine
end

