-- ==== Sys2Proof/Machine/Port.lean ====
section
/-! DEFINITION. The ports of the block (spec/70_reset_and_hazards.md R278): how a command word comes in, what an
illegal one does, what happens while a frame waits, and the outputs as functions of the state. -/

namespace Sys2Proof.Machine

/-! ## Outputs -/

/-- `cmd_ready`: the block is idle. -/
def State.cmdReady (s : State) : Bool := s.seq.isNone

/-- `rsp_valid` and `rsp_word`. -/
def State.rspWord (s : State) : Option RspWord := s.rsp.map Response.word

/-- The frame in flight (spec/10_state.md R32): the frame of the cell whose send waits. -/
def State.inFlight (s : State) : Option Frame :=
  match s.seq with
  | some ⟨.send a _ :: _, _, _, _⟩ => some (frameOf a (s.xAt a))
  | _ => none

/-- `tx_valid` and `tx_frame`. -/
def State.txFrame (s : State) : Option (BitVec 16) := s.inFlight.map Frame.word

/-- `fcnt` (spec/10_state.md R32); 0 when idle (R35). -/
def State.fcnt (s : State) : BitVec 8 :=
  match s.seq with
  | some q => q.fcnt
  | none => 0#8

/-- `first_fail` (spec/10_state.md R32); none when idle (R35). -/
def State.firstFail (s : State) : Option (BitVec 8) :=
  match s.seq with
  | some q => q.firstFail
  | none => none

/-! ## Inputs -/

/-- Run a command word the port accepted: the command it decodes to, or `IllegalCommand` with no effect
(spec/30_encoding.md R90, R95, spec/60_exceptions.md R237). -/
def State.runWord (s : State) (w : CmdWord) : Host.Outcome State Fault Refusal :=
  match decode w with
  | .ok i => exec i s
  | .error _ => .next (s.raise .illegalCommand 0#8)

/-- One step of a block whose configuration is well formed. `rst` is obeyed at once, whatever the block is doing
(spec/70_reset_and_hazards.md R260); a command is accepted only when the block is idle (spec/20_memory.md R59);
a waiting command goes on, which with nothing from the transport means that it waits (R270; log 8); with nothing
to do the block stays as it is (spec/60_exceptions.md R248). -/
def State.portStep (s : State) : Host.Outcome State Fault Refusal :=
  match s.host, s.seq with
  | .hardwareReset :: rest, _ => .next { s.hardwareReset with host := rest }
  | _, some q => .next (s.goOn q)
  | .command w :: rest, none => State.runWord { s with host := rest } w
  | [], none => .next s

/-- The state in which the block is idle and `w` is the next word on its command port. -/
def State.offering (s : State) (w : CmdWord) : State := { s with seq := none, host := .command w :: s.host }

end Sys2Proof.Machine
end

