-- ==== Sys2Proof/Machine/Step.lean ====
section
/-! DEFINITION. One step of the block: it takes the next thing that happens at its ports. -/

namespace Sys2Proof.Machine

/-- One step. A configuration that is not well formed has no meaning (spec/00_scope.md R5). -/
def step (s : State) : Host.Outcome State Fault Refusal :=
  if s.cfg.wf then s.portStep else .refused .illFormedCfg

/-- The state whose next step runs the command word whose bits are `w`: the block stores no program, so the word
is offered at the command port (spec/20_memory.md R61; log 3, log 10). -/
def State.withFetchWord (s : State) (nbits w : Nat) : State := s.offering (tableWord nbits w)

end Sys2Proof.Machine
end

