-- ==== Sys2Proof/Machine/Assembler.lean ====
section
/-! DEFINITION. The assembler syntax (spec/30_encoding.md R93) and its pseudo-instructions (R94): one line of
text to the command it stands for. The block itself never sees text. What R93 leaves open (spacing, letter case,
blank lines) is chosen in log 12. -/

namespace Sys2Proof.Machine.Asm

/-- A space or a tab. -/
def blank (c : Char) : Bool := c == ' ' || c == '\t'

/-- The text without the blanks around it. -/
def trim (cs : List Char) : List Char :=
  ((cs.dropWhile blank).reverse.dropWhile blank).reverse

/-- The text before `;`, which starts a comment. -/
def uncomment (cs : List Char) : List Char := cs.takeWhile (· != ';')

/-- The parts between commas. -/
def splitCommas : List Char → List (List Char)
  | [] => [[]]
  | c :: cs =>
    if c == ',' then [] :: splitCommas cs
    else match splitCommas cs with
      | [] => [[c]]
      | p :: ps => (c :: p) :: ps

/-- The operands after a mnemonic; none where nothing stands. -/
def operands (cs : List Char) : List String :=
  if (trim cs).isEmpty then [] else (splitCommas cs).map fun p => String.ofList (trim p)

/-- The value of a digit in a base of at most 16. -/
def digit (base : Nat) (c : Char) : Option Nat :=
  let v := if '0' ≤ c ∧ c ≤ '9' then c.toNat - '0'.toNat
    else if 'a' ≤ c ∧ c ≤ 'f' then c.toNat - 'a'.toNat + 10
    else if 'A' ≤ c ∧ c ≤ 'F' then c.toNat - 'A'.toNat + 10
    else base
  if v < base then some v else none

/-- The value of a nonempty run of digits. -/
def digits (base : Nat) (cs : List Char) : Option Nat :=
  if cs.isEmpty then none
  else cs.foldl (fun acc c => acc.bind fun n => (digit base c).map (n * base + ·)) (some 0)

/-- A number, decimal or `0x` hexadecimal. -/
def number (t : String) : Option Nat :=
  match t.toList with
  | '0' :: 'x' :: cs => digits 16 cs
  | cs => digits 10 cs

/-- A number that fits a field of `k` bits; a wider one is no operand (spec/30_encoding.md R84). -/
def field (k : Nat) (t : String) : Option (BitVec k) :=
  (number t).bind fun n => if n < 2 ^ k then some (BitVec.ofNat k n) else none

/-- A cell index, as a number or by its `Cfg` name. -/
def address (c : Cfg) (t : String) : Option Addr :=
  match t with
  | "RST" => some c.rst
  | "PWR" => some c.pwr
  | "ACT" => some c.act
  | "IFACE" => some c.iface
  | "SRATE" => some c.srate
  | "DIG" => some c.dig
  | "INVOL_L" => some c.involL
  | "INVOL_R" => some c.involR
  | _ => field 7 t

/-- `0` or `1`. -/
def boolean (t : String) : Option Bool := (field 1 t).map (·.getLsbD 0)

/-- A bias level by name. -/
def level : String → Option BiasLevel
  | "Off" => some .off
  | "Standby" => some .standby
  | "Prepare" => some .prepare
  | "On" => some .on
  | _ => none

/-- `M` or `S`. -/
def role : String → Option Bool
  | "M" => some true
  | "S" => some false
  | _ => none

/-- The frame format by name. -/
def format : String → Option FrameFormat
  | "I2S" => some .i2s
  | "LJ" => some .leftJustified
  | "RJ" => some .rightJustified
  | "DSPA" => some .dspA
  | "DSPB" => some .dspB
  | _ => none

/-- The polarity word: bit clock, then frame clock. -/
def polarity : String → Option (Bool × Bool)
  | "NN" => some (false, false)
  | "IN" => some (true, false)
  | "NI" => some (false, true)
  | "II" => some (true, true)
  | _ => none

/-- The sample width. -/
def width : String → Option SampleWidth
  | "16" => some .w16
  | "20" => some .w20
  | "24" => some .w24
  | _ => none

/-- `<cfg>`: a byte, or the four words of the symbolic form. -/
def cfgOperand : List String → Option (BitVec 8)
  | [b] => field 8 b
  | [m, f, p, w] => do
    let m ← role m
    let f ← format f
    let p ← polarity p
    let w ← width w
    some (cfgByte ⟨m, f, p.1, p.2, w⟩)
  | _ => none

/-- A clock and a rate. -/
def clockRate (mk : Hz → Hz → Instr) (clk rate : String) : Option Instr := do
  let c ← field 32 clk
  let r ← field 32 rate
  some (mk c r)

/-- The command a mnemonic and its operands stand for. -/
def command (c : Cfg) (mnemonic : String) (ops : List String) : Option Instr :=
  match mnemonic, ops with
  | "ATTACH", [clk] => (field 32 clk).map .attach
  | "DETACH", [] => some .detach
  | "GETREG", [a] => (address c a).map .getreg
  | "SETREG", [a, v] => (address c a).bind fun a => (field 16 v).map (.setreg a)
  | "RESET", [] => some .reset
  | "SETFMT", ops => (cfgOperand ops).map .setfmt
  | "SETRATE", [clk, rate] => clockRate (.setrate false) clk rate
  | "SETRATE.S", [clk, rate] => clockRate (.setrate true) clk rate
  | "SETMUTE", [m] => (boolean m).map .setmute
  | "MUTE", [] => some Instr.mute
  | "UNMUTE", [] => some Instr.unmute
  | "SETBIAS", [l] => (level l).map .setbias
  | "SUSPEND", [] => some .suspend
  | "RESUME", [] => some .resume
  | "RESOLVE", [clk, rate] => clockRate (.resolve false) clk rate
  | "RESOLVE.S", [clk, rate] => clockRate (.resolve true) clk rate
  | "COMPOSE", ops => (cfgOperand ops).map .compose
  | "GETSTAT", [b] => (boolean b).map .getstat
  | "GETCONF", [a] => (address c a).map .getconf
  | _, _ => none

/-- The command one line of assembly stands for; none where the line is no command. -/
def line (c : Cfg) (text : String) : Option Instr :=
  let cs := trim (uncomment text.toList)
  let mnemonic := cs.takeWhile fun ch => !blank ch
  command c (String.ofList mnemonic) (operands (cs.drop mnemonic.length))

end Sys2Proof.Machine.Asm
end

