-- ==== Sys2Proof/Safety.lean ====
section
/-! DEFINITION. The terms claims about the block are stated in: when it may take a command, how a command ended,
what it left alone, and the invariants of a run. -/

namespace Sys2Proof.Machine

/-! ## States -/

/-- The configuration is one the block has (spec/00_scope.md R5) and the cache has its shape. -/
abbrev Shaped (s : State) : Prop := s.cfg.wf = true ∧ Memory.wf s = true

/-- The block is well formed and idle: it may take a command. -/
abbrev Ready (s : State) : Prop := Shaped s ∧ s.seq = none

/-- The entry of the last frame to address `a`, if there was one. -/
def lastFor (a : Addr) (log : List TxEntry) : Option TxEntry :=
  (log.filter fun e => e.frame.addr == a).getLast?

/-- What a confirmed flag means (spec/10_state.md R29): the last frame to the cell's address was accepted, and it
carried the value the cell holds now. The value of the cell of `RST` is left out (spec/93_implementation_defined.md
U10: a claim must not mention it; log 4). -/
def ConfirmedMeansSent (s : State) : Prop :=
  ∀ a, s.confAt a = true → ∃ e, lastFor a s.txlog = some e ∧ e.ok = true ∧
    (a ≠ s.cfg.rst → e.frame = frameOf a (s.xAt a))

/-- The states a run from `s` goes through. -/
inductive Reaches (s : State) : State → Prop
  | start : Reaches s s
  | step {t u : State} : Reaches s t → step t = .next u → Reaches s u

/-! ## The transport -/

/-- `k` frames accepted. -/
def accepted (k : Nat) : List TxEvent := List.replicate k (.answer false 2#2)

/-- An answer, and whether it is the success of a send (spec/20_memory.md R57). -/
def TxEvent.isOk : TxEvent → Bool
  | .answer err acc => txOk err acc
  | .delay => false

/-- The event is an answer. -/
def TxEvent.isAnswer : TxEvent → Bool
  | .answer _ _ => true
  | .delay => false

/-! ## Commands -/

/-- The command runs from `s` to its end in `t`, with the response `r`. -/
def Ends (i : Instr) (s t : State) (r : Response) : Prop :=
  exec i s = .next t ∧ t.seq = none ∧ t.rsp = some r

/-- The state of `s` after an error that has no effect (spec/30_encoding.md R95, steps 1 to 3). -/
def State.erred (s : State) (st : Status) (aux : BitVec 8) : State := { s with rsp := some ⟨st, aux, 0#32⟩ }

/-- What a command needs of `attached` (spec/60_exceptions.md R236). -/
def needOf : Instr → Need
  | .attach _ => .detached
  | .resolve _ _ _ | .compose _ | .getstat _ => .any
  | .detach | .getreg _ | .setreg _ _ | .reset | .setfmt _ | .setrate _ _ _ | .setmute _ | .setbias _
  | .suspend | .resume | .getconf _ => .attached

/-- The commands that only report (spec/10_state.md R36: no state column is written). -/
def reportsOnly : Instr → Bool
  | .getreg _ | .getconf _ | .getstat _ | .resolve _ _ _ | .compose _ => true
  | .attach _ | .detach | .setreg _ _ | .reset | .setfmt _ | .setrate _ _ _ | .setmute _ | .setbias _
  | .suspend | .resume => false

/-- The commands that seed the cache (spec/44_power_lifecycle.md R207, R208). -/
def seeds : Instr → Bool
  | .attach _ | .detach => true
  | .getreg _ | .setreg _ _ | .reset | .setfmt _ | .setrate _ _ _ | .setmute _ | .setbias _ | .suspend | .resume
  | .getconf _ | .getstat _ | .resolve _ _ _ | .compose _ => false

/-- The cells a command may write (spec/10_state.md R36, column `x`); `none` is all of them. -/
def cellsWritten (c : Cfg) : Instr → Option (List Addr)
  | .attach _ | .detach => none
  | .setreg a _ => some [a]
  | .reset => some [c.rst]
  | .setfmt _ => some [c.iface]
  | .setrate _ _ _ => some [c.srate]
  | .setmute _ => some [c.dig]
  | .setbias _ | .suspend | .resume => some [c.pwr, c.act]
  | .getreg _ | .getconf _ | .getstat _ | .resolve _ _ _ | .compose _ => some []

/-! ## What is left alone -/

/-- The configuration and what waits at the command port. -/
structure PortsKept (s t : State) : Prop where
  cfg  : t.cfg = s.cfg
  host : t.host = s.host

/-- The control state (spec/10_state.md section 3). -/
structure ControlKept (s t : State) : Prop where
  bias     : t.bias = s.bias
  pending  : t.pending = s.pending
  sysclk   : t.sysclk = s.sysclk
  attached : t.attached = s.attached

/-- Every observable cell holds what `v` gives it; the cell of `RST` is not observable (spec/10_state.md R22). -/
def CellsAre (s t : State) (v : Addr → Value) : Prop := ∀ a, a ≠ s.cfg.rst → t.xAt a = v a

/-- Every confirmed flag is what `f` gives it. -/
def FlagsAre (t : State) (f : Addr → Bool) : Prop := ∀ a, t.confAt a = f a

/-- The frames of `es` were answered since `s`, in that order, and no others. -/
def Logged (s t : State) (es : List TxEntry) : Prop := t.txlog = s.txlog ++ es

/-- The entry of an accepted frame. -/
def okEntry (a : Addr) (v : Value) : TxEntry := ⟨frameOf a v, true⟩

/-- One `Program(a, v)` and nothing else happened to the cells, the flags and the wire
(spec/40_cache_write_protocol.md R114). -/
structure Programmed (s t : State) (a : Addr) (v : Value) (ok : Bool) : Prop where
  ports : PortsKept s t
  log   : Logged s t [⟨frameOf a v, ok⟩]
  cells : CellsAre s t fun b => if b = a then v else s.xAt b
  flags : FlagsAre t fun b => if b = a then ok else s.confAt b

/-- The flag the replay leaves at `a` when the transport answers its frames with `bs`: whether the frame of the cell
was accepted; a cell the replay does not send keeps its flag (spec/44_power_lifecycle.md R202). -/
def replayFlag (s : State) (bs : List TxEvent) (a : Addr) : Bool :=
  (((replayAddrs s.cfg).zip bs).lookup a).elim (s.confAt a) TxEvent.isOk

/-- The response of a `RESUME` whose frames were accepted or not as `oks` says, in order: `IoError` with the ordinal
of the first failure, if there is one (spec/44_power_lifecycle.md R204). -/
def resumeResponse (oks : List Bool) : Response :=
  match oks.findIdx? (! ·) with
  | none => ⟨.ok, 0#8, 0#32⟩
  | some k => ⟨.ioError, BitVec.ofNat 8 k, 0#32⟩

/-- A `RESUME` from `s` to its end in `t`, whose replay the transport answered with `bs`: after the replay it wrote
and sent `more` (the address, the value, and whether the frame was accepted), and `level` is recorded; nothing else
happened (spec/44_power_lifecycle.md R202, R204). -/
structure Resumed (s t : State) (bs : List TxEvent) (more : List (Addr × Value × Bool)) (level : BiasLevel) :
    Prop where
  ends     : Ends .resume s t (resumeResponse (bs.map TxEvent.isOk ++ more.map fun m => m.2.2))
  ports    : PortsKept s t
  log      : Logged s t (List.zipWith (fun a e => ⟨frameOf a (s.xAt a), e.isOk⟩) (replayAddrs s.cfg) bs ++
               more.map fun m => ⟨frameOf m.1 m.2.1, m.2.2⟩)
  cells    : CellsAre s t fun a => (more.reverse.lookup a).elim (s.xAt a) Prod.fst
  flags    : FlagsAre t fun a => (more.reverse.lookup a).elim (replayFlag s bs a) Prod.snd
  bias     : t.bias = level
  pending  : t.pending = s.pending
  sysclk   : t.sysclk = s.sysclk
  attached : t.attached = s.attached

/-- The states differ in nothing but the cell of `RST`. -/
structure SameButRst (s t : State) : Prop where
  ports    : PortsKept s t
  control  : ControlKept s t
  conf     : t.conf = s.conf
  seq      : t.seq = s.seq
  txlog    : t.txlog = s.txlog
  rsp      : t.rsp = s.rsp
  answers  : t.answers = s.answers
  cells    : ∀ k, k ≠ s.cfg.rst.toNat → t.x[k]? = s.x[k]?
  length   : t.x.length = s.x.length

end Sys2Proof.Machine
end

