-- ==== Sys2Proof/Certificates/Slice0/Obligations.lean ====
section
/-! DEFINITION. The statements about the block that are to be proved. -/

open Sys2Proof Sys2Proof.Machine

/-! ## Encodings -/

/-- Words written out from spec/30_encoding.md sections 3 and 8 decode to the commands they stand for. The
command word is the spec's own (decision D2). -/
def Obligations.SpecWordsDecode : Prop :=
  decode 0x1000BB800000000000#72 = .ok (.attach 12288000#32) ∧
  decode 0x40000000060000009F#72 = .ok (.setreg 6#7 0x009f#16) ∧
  decode 0x7100AC44000000AC44#72 = .ok (.setrate true 11289600#32 44100#32) ∧
  decode 0x900000000000000000#72 = .ok (.setbias .off) ∧
  decode 0x900000000000000001#72 = .ok (.setbias .standby) ∧
  decode 0x900000000000000002#72 = .ok (.setbias .prepare) ∧
  decode 0x900000000000000003#72 = .ok (.setbias .on) ∧
  decode 0xD00000000000000083#72 = .ok (.compose 0x83#8) ∧
  decode 0x000000000000000000#72 = .error .reservedOpcode ∧
  decode 0x300000000000000080#72 = .error .nonzeroReserved

/-- Decoding the encoding of any command gives the command back, every operand at every value. The command word
is the spec's own (decision D2). -/
def Obligations.DecodeOfEncode : Prop := ∀ i : Instr, decode (encode i) = .ok i

/-- A word that decodes to a command is that command's encoding: no bit of a legal word is ignored. Reserved
bits are the spec's own (decision D25). -/
def Obligations.EncodeOfDecode : Prop := ∀ (w : CmdWord) (i : Instr), decode w = .ok i → encode i = w

/-- R90 (g): a word is legal exactly when it matches a row of the opcode table, its command is one of that row,
and no word matches two rows. The spec's own (decision D25). -/
def Obligations.DecodeFollowsOpcodeTable : Prop :=
  (∀ (w : CmdWord) (i : Instr), decode w = .ok i → i.row.fits w = true) ∧
  (∀ (w : CmdWord) (i : Instr), i.row.fits w = true → ∃ j, decode w = .ok j ∧ j.row = i.row) ∧
  (∀ (w : CmdWord) (i j : Instr), i.row.fits w = true → j.row.fits w = true → i.row = j.row)

/-- R81: the two bytes of a frame, as numbers. The 7-bit address and the order on the port are the spec's own
(decisions D4 and D29). -/
def Obligations.FrameLayout : Prop :=
  ∀ (a : Addr) (v : Value),
    (frameOf a v).byte0.toNat = 2 * a.toNat + v.toNat / 256 % 2 ∧
    (frameOf a v).byte1.toNat = v.toNat % 256 ∧
    (frameOf a v).word.toNat = 256 * (frameOf a v).byte0.toNat + (frameOf a v).byte1.toNat

/-- R54: a frame gives back the address and the low nine bits of the value, so two values make the same frame
for an address exactly when they agree on those bits. -/
def Obligations.FrameCarriesNineBits : Prop :=
  ∀ (a b : Addr) (v w : Value),
    (frameOf a v).addr = a ∧ (frameOf a v).data = v.setWidth 9 ∧
    (frameOf a v = frameOf b w ↔ a = b ∧ v.setWidth 9 = w.setWidth 9)

/-- R92: the sample-rate register value of a row. -/
def Obligations.SrValueLayout : Prop :=
  ∀ r : CoeffRow, (srValue r).toNat = 4 * r.sr.toNat + 2 * r.bosr.toNat + r.usb.toNat

/-- R87, R88: the response word, as a number, whose bits 43:40 are 0; and the code of each status. The response
word and the codes are the spec's own (decision D3). -/
def Obligations.ResponseWordLayout : Prop :=
  (∀ r : Response, r.word.toNat = r.status.code.toNat * 2 ^ 44 + r.aux.toNat * 2 ^ 32 + r.data.toNat) ∧
  Status.ok.code = 0x0#4 ∧ Status.outOfRange.code = 0x1#4 ∧ Status.ioError.code = 0x2#4 ∧
  Status.invalidFormat.code = 0x3#4 ∧ Status.unsupportedRate.code = 0x4#4 ∧ Status.badState.code = 0x5#4 ∧
  Status.illegalCommand.code = 0x6#4 ∧ ∀ st : Status, st.code.toNat ≤ 6

/-- R85: what each field of a cfg byte that means a configuration stands for; every configuration has a cfg byte
that means it, and a byte means none exactly when its format code is 5 to 7 or its width code is 3. The cfg byte
is the spec's own (decisions D23 and D24). -/
def Obligations.CfgByteMeansConfig : Prop :=
  (∀ (b : BitVec 8) (ic : InterfaceConfig), interfaceConfig b = some ic →
    (ic.masterMode = true ↔ b.toNat % 2 = 1) ∧
    [FrameFormat.i2s, .leftJustified, .rightJustified, .dspA, .dspB][b.toNat / 2 % 8]? = some ic.frameFormat ∧
    (ic.bitClockInvert = true ↔ b.toNat / 16 % 2 = 1) ∧
    (ic.frameClockInvert = true ↔ b.toNat / 32 % 2 = 1) ∧
    [SampleWidth.w16, .w20, .w24][b.toNat / 64]? = some ic.sampleWidth) ∧
  (∀ ic : InterfaceConfig, interfaceConfig (cfgByte ic) = some ic) ∧
  (∀ b : BitVec 8, interfaceConfig b = none ↔ 5 ≤ b.toNat / 2 % 8 ∨ b.toNat / 64 = 3)

/-! ## The parts of the block -/

/-- R113: what a checked write leaves for a checked read, at an ordinary address, at `RST`, and out of range.
The spec derives it (from its rules R111 and R112). -/
def Obligations.WriteThenRead : Prop :=
  ∀ (s : State) (a : Addr) (v : Value), Shaped s →
    (a.toNat < s.cfg.n → a ≠ s.cfg.rst → ∃ t, s.memWrite a v = some t ∧ t.memRead a = some v) ∧
    (a = s.cfg.rst → ∃ t, s.memWrite a v = some t ∧ t.memRead a = some 0#16) ∧
    (s.cfg.n ≤ a.toNat → s.memWrite a v = none ∧ s.memRead a = none)

/-- R141: the resolver returns the first row with the key; without one it returns row 0, or fails when strict. -/
def Obligations.ResolveFirstMatch : Prop :=
  ∀ (c : Cfg) (clk rate : Hz) (strict : Bool), c.wf = true →
    (∀ (k : Nat) (r : CoeffRow), c.coeff[k]? = some r → r.clk = clk → r.rate = rate →
      (∀ j < k, ∀ q, c.coeff[j]? = some q → ¬ (q.clk = clk ∧ q.rate = rate)) →
        resolveRow c clk rate strict = some (k, r)) ∧
    ((∀ r ∈ c.coeff, ¬ (r.clk = clk ∧ r.rate = rate)) →
      (strict = true → resolveRow c clk rate strict = none) ∧
      (strict = false → ∃ r, c.coeff[0]? = some r ∧ resolveRow c clk rate strict = some (0, r)))

/-- R142: every block resolves the two attested pairs to the attested rows. -/
def Obligations.AttestedRowsResolve : Prop :=
  ∀ (c : Cfg) (strict : Bool), c.wf = true →
    (∃ k, resolveRow c 12288000#32 48000#32 strict
      = some (k, ⟨12288000#32, 48000#32, 256#16, 0x0#4, false, false⟩)) ∧
    (∃ k, resolveRow c 11289600#32 44100#32 strict
      = some (k, ⟨11289600#32, 44100#32, 256#16, 0x8#4, false, false⟩))

/-- R161 with the table of R162: the composed value is the OR of the four groups' patterns, each given for its
code in the cfg byte: the role, the formats I2S, LJ, RJ, DSPA, DSPB, the polarities none, bit clock, frame
clock, both, and the widths 16, 20, 24; a format code above 4 or the width code 3 composes nothing. The codes
are the spec's own (decision D23), so is that the width code 3 is refused (decision D24); which patterns are
parameters is decision D9. -/
def Obligations.ComposeOrsTheGroups : Prop :=
  ∀ (c : Cfg) (b : BitVec 8),
    (5 ≤ (b.extractLsb' 1 3).toNat → composeByte c b = none) ∧
    (b.extractLsb' 6 2 = 3#2 → composeByte c b = none) ∧
    (∀ ff w, formatOfCode (b.extractLsb' 1 3) = some ff → widthOfCode (b.extractLsb' 6 2) = some w →
      composeByte c b = some ((if b.getLsbD 0 then 0x0040#16 else 0#16) ||| patFmt c ff |||
        patPol c (b.getLsbD 4) (b.getLsbD 5) ||| patWidth c w)) ∧
    (∀ f p w : Value,
      [0x0002#16, c.fmtLJ, 0x0000#16, c.fmtDspA, c.fmtDspB][b.toNat / 2 % 8]? = some f →
      [0x0000#16, c.polBit, c.polFrame, c.polBoth][b.toNat / 16 % 4]? = some p →
      [0x0000#16, c.w20, 0x0008#16][b.toNat / 64]? = some w →
        composeByte c b = some ((if b.toNat % 2 = 1 then 0x0040#16 else 0x0000#16) ||| f ||| p ||| w))

/-! ## Reset, the command port, steps -/

/-- R260: hardware reset, whatever the block is doing, performs the seed, detaches, empties the sequencer and
`TXLOG`, and produces no response. Hardware reset is the spec's own (decision D27); how it reaches the block is
log 3, what it leaves of the inputs log 7. -/
def Obligations.HardwareResetSeeds : Prop :=
  ∀ (s : State) (rest : List HostEvent), Shaped s → s.host = .hardwareReset :: rest →
    ∃ t, step s = .next t ∧ t.cfg = s.cfg ∧
      CellsAre s t (fun a => s.cfg.defaults.getD a.toNat 0#16) ∧ FlagsAre t (fun _ => false) ∧
      t.bias = .off ∧ t.pending = .off ∧ t.sysclk = 0#32 ∧ t.attached = false ∧
      t.seq = none ∧ t.txlog = [] ∧ t.rsp = none

/-- A step of an idle block that is offered a legal command word is that command. The list of host events is the
model's (log 3). -/
def Obligations.StepRunsDecodedCommand : Prop :=
  ∀ (s : State) (w : CmdWord) (i : Instr) (rest : List HostEvent),
    s.cfg.wf = true → s.seq = none → s.host = .command w :: rest → decode w = .ok i →
      step s = exec i { s with host := rest }

/-- R237: an illegal command word is answered `IllegalCommand`, and nothing else happens. The error is the
spec's own (decision D25); the list of host events is the model's (log 3). -/
def Obligations.IllegalWordIsAnswered : Prop :=
  ∀ (s : State) (w : CmdWord) (e : Reject) (rest : List HostEvent),
    s.cfg.wf = true → s.seq = none → s.host = .command w :: rest → decode w = .error e →
      step s = .next { s with host := rest, rsp := some ⟨.illegalCommand, 0#8, 0#32⟩ }

/-- R5: a configuration that is not well formed is given no meaning, by a step or by a command. The refusal
stands for "a model refuses" there (log 9). -/
def Obligations.IllFormedCfgHasNoMeaning : Prop :=
  ∀ (s : State) (i : Instr), s.cfg.wf = false →
    step s = .refused .illFormedCfg ∧ exec i s = .refused .illFormedCfg

/-- R59: while a command executes, no step takes another one from the port. The spec's own (decision D32); the
list of host events is the model's (log 3). -/
def Obligations.BusyBlockTakesNoCommand : Prop :=
  ∀ (s t : State) (q : Sequencer) (w : CmdWord) (rest : List HostEvent),
    s.seq = some q → s.host = .command w :: rest → step s = .next t → t.host = s.host

/-- R270: a frame that is never answered keeps the block where it is, for any number of steps, unless `rst`
comes. That a waiting step leaves the state as it is, is the model's (log 8). -/
def Obligations.UnansweredFrameWaitsForEver : Prop :=
  ∀ (s : State) (q : Sequencer) (a : Addr) (f : OnFail) (ops : List MicroOp) (k : Nat),
    s.cfg.wf = true → s.seq = some q → q.todo = .send a f :: ops → s.answers = [] →
    (∀ rest, s.host ≠ .hardwareReset :: rest) →
      Sys2Proof.core.run k s = .next s

/-- The same answers give the same result however late they come: a command that ran out of answers and goes on
when the rest arrive ends as if they had all been there. The list of answers and its delays are the model's (log
2). -/
def Obligations.LateAnswersChangeNothing : Prop :=
  ∀ (i : Instr) (s t : State) (q : Sequencer) (early late : List TxEvent),
    Ready s → (∀ rest, s.host ≠ .hardwareReset :: rest) →
    exec i { s with answers := early } = .next t → t.seq = some q → t.answers = [] →
      step { t with answers := .delay :: late } = exec i { s with answers := early ++ late }

/-- When the transport answers, every command ends: 130 answers are enough for any of them. The list of answers
is the model's (log 2). -/
def Obligations.AnsweredCommandsEnd : Prop :=
  ∀ (i : Instr) (s : State), Ready s → 130 ≤ s.answers.length →
    (∀ e ∈ s.answers.take 130, e.isAnswer = true) →
      ∃ t r, Ends i s t r

/-! ## All commands -/

/-- R87: a command that ends has produced one response, and one that waits for the transport has produced none.
That the response port is empty from acceptance to the end is the model's (log 6). -/
def Obligations.OneResponsePerCommand : Prop :=
  ∀ (i : Instr) (s t : State), Ready s → exec i s = .next t →
    (t.seq = none ∧ ∃ r, t.rsp = some r) ∨ ((∃ q, t.seq = some q) ∧ t.rsp = none)

/-- R236: a command whose lifecycle requirement fails ends with `BadState`, no state change, no frame. The
spec's own (decision D17). -/
def Obligations.WrongLifecycleIsBadState : Prop :=
  ∀ (i : Instr) (s : State), Ready s →
    (needOf i = .attached ∧ s.attached = false ∨ needOf i = .detached ∧ s.attached = true) →
      exec i s = .next (s.erred .badState 0#8)

/-- R95: a command that ends with an error other than `IoError` changed no state and sent no frame. The spec's
own (decision D25). -/
def Obligations.EarlyErrorsChangeNothing : Prop :=
  ∀ (i : Instr) (s t : State) (r : Response), Ready s → Ends i s t r →
    r.status ≠ .ok → r.status ≠ .ioError → t = { s with rsp := some r }

/-- R89, R233: an `IoError` names the ordinal of the command's first failed frame, and a command that ends in
any other way had every frame accepted. The ordinal is the spec's own (decision D33). -/
def Obligations.IoErrorNamesFirstFailedFrame : Prop :=
  ∀ (i : Instr) (s t : State) (r : Response), Ready s → Ends i s t r →
    ∃ es, Logged s t es ∧
      (r.status = .ioError → r.data = 0#32 ∧ (∃ e, es[r.aux.toNat]? = some e ∧ e.ok = false) ∧
        ∀ k < r.aux.toNat, ∀ e, es[k]? = some e → e.ok = true) ∧
      (r.status ≠ .ioError → ∀ e ∈ es, e.ok = true)

/-- R36: the commands that only report change nothing but the response port. -/
def Obligations.ReportsChangeNothing : Prop :=
  ∀ (i : Instr) (s : State), Ready s → reportsOnly i = true →
    ∃ r, exec i s = .next { s with rsp := some r }

/-- R36: which commands may change `attached`, `bias`, `pending` and `sysclk`. -/
def Obligations.WritersOfControlState : Prop :=
  ∀ (i : Instr) (s t : State), Ready s → exec i s = .next t →
    (t.attached ≠ s.attached → i = .detach ∨ ∃ clk, i = .attach clk) ∧
    (t.bias ≠ s.bias → i = .detach ∨ i = .suspend ∨ i = .resume ∨
      (∃ l, i = .setbias l) ∨ ∃ clk, i = .attach clk) ∧
    (t.pending ≠ s.pending → i = .detach ∨ i = .suspend ∨ ∃ clk, i = .attach clk) ∧
    (t.sysclk ≠ s.sysclk → i = .detach ∨ (∃ strict clk rate, i = .setrate strict clk rate) ∨
      ∃ clk, i = .attach clk)

/-- R36: a command changes no observable cell but those it may write. -/
def Obligations.WritersOfCells : Prop :=
  ∀ (i : Instr) (s t : State) (as : List Addr) (a : Addr), Ready s → exec i s = .next t →
    cellsWritten s.cfg i = some as → a ∉ as → a ≠ s.cfg.rst → t.xAt a = s.xAt a

/-- R23: when a command has ended, whatever the transport answered, each observable cell holds what its last
frame of the command carried, accepted or not; a cell the command sent no frame for holds what it held before,
or its default where the command seeds. The spec derives it (from its rules R112, R114 and R206). -/
def Obligations.CacheHoldsWhatWasAttempted : Prop :=
  ∀ (i : Instr) (s t : State) (r : Response) (es : List TxEntry) (a : Addr), Ready s → Ends i s t r →
    Logged s t es → a ≠ s.cfg.rst →
    (∀ e, lastFor a es = some e → e.frame = frameOf a (t.xAt a)) ∧
    (lastFor a es = none →
      t.xAt a = if seeds i ∧ r.status ≠ .badState then s.cfg.defaults.getD a.toNat 0#16 else s.xAt a)

/-- R22: the value stored in the cell of `RST` changes no outcome: from states that differ in nothing else,
every command gives results that differ in nothing else. That the cell is stored at all is the spec's and the
model's choice (decision D36, log 4). -/
def Obligations.ResetCellIsUnobservable : Prop :=
  ∀ (i : Instr) (s s' t : State), Ready s → SameButRst s s' → exec i s = .next t →
    ∃ t', exec i s' = .next t' ∧ SameButRst t t'

/-! ## Invariants -/

/-- The reset state has the invariants. That the reset state carries CFG_REF is the model's choice (log 1). The
value of the cell of RST is left out (log 4). -/
def Obligations.ResetHasInvariants : Prop :=
  Ready State.reset ∧ ConfirmedMeansSent State.reset ∧ ∀ c : Cfg, ConfirmedMeansSent (State.resetWith c)

/-- Every step keeps the configuration and the shape of the cache. The shape of the lists is the model's (log
11). -/
def Obligations.StepKeepsShape : Prop :=
  ∀ s t : State, Shaped s → step s = .next t → Shaped t ∧ t.cfg = s.cfg

/-- R29: every step keeps the meaning of the confirmed flags. The meaning of the flag is the spec's own
(decision D22); the value of the cell of RST is left out (decision D36, log 4). -/
def Obligations.StepKeepsConfirmed : Prop :=
  ∀ s t : State, ConfirmedMeansSent s → step s = .next t → ConfirmedMeansSent t

/-- Every state of a run from reset, whatever the host and the transport do, has the shape and the meaning of
the confirmed flags. The lists of events and answers are the model's (logs 2 and 3). The value of the cell of
RST is left out (decision D36, log 4). -/
def Obligations.RunsFromResetAreSafe : Prop :=
  ∀ (c : Cfg) (host : List HostEvent) (answers : List TxEvent) (t : State), c.wf = true →
    Reaches { State.resetWith c with host := host, answers := answers } t →
      Shaped t ∧ ConfirmedMeansSent t

/-- R231: no command and no event stops the block: a well-formed block always has a next state. -/
def Obligations.BlockNeverStops : Prop := ∀ s : State, Shaped s → ∃ t, step s = .next t

/-! ## Register commands -/

/-- R117: GETREG reports the cell, 0 for `RST`, and `OutOfRange` for an address with no cell. BadState is the
spec's own (decision D17). -/
def Obligations.GetregReportsCell : Prop :=
  ∀ (s : State) (a : Addr), Ready s →
    (s.attached = false → exec (.getreg a) s = .next (s.erred .badState 0#8)) ∧
    (s.attached = true → a = s.cfg.rst → exec (.getreg a) s = .next { s with rsp := some ⟨.ok, 0#8, 0#32⟩ }) ∧
    (s.attached = true → a ≠ s.cfg.rst → a.toNat < s.cfg.n →
      exec (.getreg a) s = .next { s with rsp := some ⟨.ok, 0#8, (s.xAt a).setWidth 32⟩ }) ∧
    (s.attached = true → s.cfg.n ≤ a.toNat →
      exec (.getreg a) s = .next (s.erred .outOfRange (a.setWidth 8)))

/-- R118, and R9 and R57 of the answer: SETREG programs the cell with all 16 bits and sends one frame, or
answers `OutOfRange` with no effect. The send succeeds exactly when no failure is reported and two bytes were
accepted: any other answer, an `acc` of 0, 1 or 3 or an `err` of 1, is a failure, here and in `txOk`, through
which every other statement says it. BadState is the spec's own (decision D17), so is the form of the
transport's answer (decision D26); the value stored for RST itself is left out, as the spec asks (decision D36,
log 4). -/
def Obligations.SetregProgramsCell : Prop :=
  (∀ (err : Bool) (acc : BitVec 2), txOk err acc = true ↔ err = false ∧ acc = 2#2) ∧
  ∀ (s : State) (a : Addr) (v : Value), Ready s →
    (s.attached = false → exec (.setreg a v) s = .next (s.erred .badState 0#8)) ∧
    (s.attached = true → s.cfg.n ≤ a.toNat →
      exec (.setreg a v) s = .next (s.erred .outOfRange (a.setWidth 8))) ∧
    (∀ err acc rest, s.attached = true → a.toNat < s.cfg.n → s.answers = .answer err acc :: rest →
      ∃ t, Ends (.setreg a v) s t ⟨if err = false ∧ acc = 2#2 then .ok else .ioError, 0#8, 0#32⟩ ∧
        Programmed s t a v (decide (err = false ∧ acc = 2#2)) ∧ ControlKept s t ∧ t.answers = rest)

/-- R114: the cache is updated before the frame is answered: while it waits, the cell holds the value, its flag
is clear, and nothing is in `TXLOG` yet. The waiting state is the model's (logs 2 and 6). The value stored for
RST is left out (decision D36, log 4). -/
def Obligations.CacheIsWrittenBeforeTheSend : Prop :=
  ∀ (s : State) (a : Addr) (v : Value), Ready s → s.attached = true → a.toNat < s.cfg.n → s.answers = [] →
    ∃ t, exec (.setreg a v) s = .next t ∧ t.inFlight = some (frameOf a v) ∧
      (a ≠ s.cfg.rst → t.xAt a = v) ∧ t.confAt a = false ∧ t.txlog = s.txlog ∧ t.rsp = none

/-- R119: RESET sends the reset frame and leaves every observable cell and the control state as they are.
BadState is decision D17. -/
def Obligations.ResetSendsOneFrame : Prop :=
  ∀ (s : State), Ready s →
    (s.attached = false → exec .reset s = .next (s.erred .badState 0#8)) ∧
    (∀ err acc rest, s.attached = true → s.answers = .answer err acc :: rest →
      ∃ t, Ends .reset s t ⟨if txOk err acc then .ok else .ioError, 0#8, 0#32⟩ ∧
        Programmed s t s.cfg.rst 0#16 (txOk err acc) ∧ CellsAre s t s.xAt ∧ ControlKept s t ∧
        t.answers = rest)

/-- R120: GETCONF reports the flag of any cell, the one of `RST` too. The command is the spec's own (decisions
D22 and D30). BadState is decision D17. -/
def Obligations.GetconfReportsFlag : Prop :=
  ∀ (s : State) (a : Addr), Ready s →
    (s.attached = false → exec (.getconf a) s = .next (s.erred .badState 0#8)) ∧
    (s.attached = true → a.toNat < s.cfg.n →
      exec (.getconf a) s = .next { s with rsp := some ⟨.ok, 0#8, if s.confAt a then 1#32 else 0#32⟩ }) ∧
    (s.attached = true → s.cfg.n ≤ a.toNat →
      exec (.getconf a) s = .next (s.erred .outOfRange (a.setWidth 8)))

/-- R122: SETMUTE sets or clears the mute bit of the digital-path register and keeps every other bit. Set and
clear, not invert, is the spec's own reading (decision D11). BadState is decision D17. -/
def Obligations.SetmuteChangesOneBit : Prop :=
  ∀ (s : State) (m : Bool), Ready s →
    (s.attached = false → exec (.setmute m) s = .next (s.erred .badState 0#8)) ∧
    (∀ err acc rest, s.attached = true → s.answers = .answer err acc :: rest →
      ∃ t, Ends (.setmute m) s t ⟨if txOk err acc then .ok else .ioError, 0#8, 0#32⟩ ∧
        Programmed s t s.cfg.dig (if m then s.xAt s.cfg.dig ||| s.cfg.muteMask
          else s.xAt s.cfg.dig &&& ~~~s.cfg.muteMask) (txOk err acc) ∧
        ControlKept s t ∧ t.answers = rest)

/-! ## Rate and format commands -/

/-- R145: RESOLVE reports the resolved row and its index, attached or not. The command is the spec's own
(decision D30). -/
def Obligations.ResolveReportsRow : Prop :=
  ∀ (s : State) (strict : Bool) (clk rate : Hz), Ready s →
    (∀ k r, resolveRow s.cfg clk rate strict = some (k, r) →
      ∃ d : BitVec 32, d.toNat = r.fs.toNat * 65536 + 4 * r.sr.toNat + 2 * r.bosr.toNat + r.usb.toNat ∧
        exec (.resolve strict clk rate) s = .next { s with rsp := some ⟨.ok, BitVec.ofNat 8 k, d⟩ }) ∧
    (resolveRow s.cfg clk rate strict = none →
      exec (.resolve strict clk rate) s = .next (s.erred .unsupportedRate 0#8))

/-- R146: SETRATE records the clock and programs the sample-rate register with the row's value, all 16 bits of
it; a strict request with no row changes nothing. That it records the clock, and before the send, is the spec's
own (decision D20). BadState is decision D17. -/
def Obligations.SetrateProgramsRow : Prop :=
  ∀ (s : State) (strict : Bool) (clk rate : Hz), Ready s →
    (s.attached = false → exec (.setrate strict clk rate) s = .next (s.erred .badState 0#8)) ∧
    (s.attached = true → resolveRow s.cfg clk rate strict = none →
      exec (.setrate strict clk rate) s = .next (s.erred .unsupportedRate 0#8)) ∧
    (∀ k r err acc rest, s.attached = true → resolveRow s.cfg clk rate strict = some (k, r) →
      s.answers = .answer err acc :: rest →
      ∃ t, Ends (.setrate strict clk rate) s t
          (if txOk err acc then ⟨.ok, BitVec.ofNat 8 k, rowData r⟩ else ⟨.ioError, 0#8, 0#32⟩) ∧
        Programmed s t s.cfg.srate (srValue r) (txOk err acc) ∧ t.sysclk = clk ∧ t.bias = s.bias ∧
        t.pending = s.pending ∧ t.attached = s.attached ∧ t.answers = rest)

/-- R164: COMPOSE reports the composed value, attached or not, or `InvalidFormat`. The command is the spec's own
(decision D30). -/
def Obligations.ComposeReportsValue : Prop :=
  ∀ (s : State) (b : BitVec 8), Ready s →
    (∀ v, composeByte s.cfg b = some v →
      exec (.compose b) s = .next { s with rsp := some ⟨.ok, 0#8, v.setWidth 32⟩ }) ∧
    (composeByte s.cfg b = none → exec (.compose b) s = .next (s.erred .invalidFormat 0#8))

/-- R165: SETFMT programs the interface register with the composed value, or answers `InvalidFormat` with no
effect. BadState is decision D17. -/
def Obligations.SetfmtProgramsValue : Prop :=
  ∀ (s : State) (b : BitVec 8), Ready s →
    (s.attached = false → exec (.setfmt b) s = .next (s.erred .badState 0#8)) ∧
    (s.attached = true → composeByte s.cfg b = none →
      exec (.setfmt b) s = .next (s.erred .invalidFormat 0#8)) ∧
    (∀ v err acc rest, s.attached = true → composeByte s.cfg b = some v → s.answers = .answer err acc :: rest →
      ∃ t, Ends (.setfmt b) s t
          (if txOk err acc then ⟨.ok, 0#8, v.setWidth 32⟩ else ⟨.ioError, 0#8, 0#32⟩) ∧
        Programmed s t s.cfg.iface v (txOk err acc) ∧ ControlKept s t ∧ t.answers = rest)

/-! ## Bias -/

/-- R183: level On clears the standby bit of the cached power register and keeps every other bit. The value is
the spec's own reading (decision D10), and when the level is recorded too (decision D14). -/
def Obligations.SetbiasOnClearsStandby : Prop :=
  ∀ (s : State) (err : Bool) (acc : BitVec 2) (rest : List TxEvent),
    Ready s → s.attached = true → s.answers = .answer err acc :: rest →
      ∃ t, Ends (.setbias .on) s t ⟨if txOk err acc then .ok else .ioError, 0#8, 0#32⟩ ∧
        Programmed s t s.cfg.pwr (s.xAt s.cfg.pwr &&& ~~~s.cfg.standbyMask) (txOk err acc) ∧
        t.bias = (if txOk err acc then .on else s.bias) ∧ t.pending = s.pending ∧ t.sysclk = s.sysclk ∧
        t.attached = s.attached ∧ t.answers = rest

/-- R184: level Prepare sends no frame, writes no cell and no flag, and sets `bias`. -/
def Obligations.SetbiasPrepareOnlyRecords : Prop :=
  ∀ s : State, Ready s → s.attached = true →
    exec (.setbias .prepare) s = .next { s with bias := .prepare, rsp := some ⟨.ok, 0#8, 0#32⟩ }

/-- R185: level Standby sets the standby bit of the cached power register and keeps every other bit. When the
level is recorded is the spec's own (decision D14). -/
def Obligations.SetbiasStandbySetsStandby : Prop :=
  ∀ (s : State) (err : Bool) (acc : BitVec 2) (rest : List TxEvent),
    Ready s → s.attached = true → s.answers = .answer err acc :: rest →
      ∃ t, Ends (.setbias .standby) s t ⟨if txOk err acc then .ok else .ioError, 0#8, 0#32⟩ ∧
        Programmed s t s.cfg.pwr (s.xAt s.cfg.pwr ||| s.cfg.standbyMask) (txOk err acc) ∧
        t.bias = (if txOk err acc then .standby else s.bias) ∧ t.pending = s.pending ∧ t.sysclk = s.sysclk ∧
        t.attached = s.attached ∧ t.answers = rest

/-- R186: level Off writes 0 to the stream-active register, then all ones to the power register, whatever they
held; if the first frame fails the second is not attempted, and `bias` is recorded only if both are accepted.
When the level is recorded is the spec's own (decision D14), so are the ordinals (decision D33). -/
def Obligations.SetbiasOffPowersDown : Prop :=
  ∀ s : State, Ready s → s.attached = true →
    (∀ err acc rest, s.answers = .answer err acc :: rest → txOk err acc = false →
      ∃ t, Ends (.setbias .off) s t ⟨.ioError, 0#8, 0#32⟩ ∧
        Programmed s t s.cfg.act 0#16 false ∧ ControlKept s t ∧ t.answers = rest) ∧
    (∀ err acc rest, s.answers = accepted 1 ++ .answer err acc :: rest →
      ∃ t, Ends (.setbias .off) s t
          (if txOk err acc then ⟨.ok, 0#8, 0#32⟩ else ⟨.ioError, 1#8, 0#32⟩) ∧
        PortsKept s t ∧ t.answers = rest ∧
        Logged s t [okEntry s.cfg.act 0#16, ⟨frameOf s.cfg.pwr 0xffff#16, txOk err acc⟩] ∧
        CellsAre s t (fun a => if a = s.cfg.pwr then 0xffff#16 else if a = s.cfg.act then 0#16 else s.xAt a) ∧
        FlagsAre t (fun a =>
          if a = s.cfg.pwr then txOk err acc else if a = s.cfg.act then true else s.confAt a) ∧
        t.bias = (if txOk err acc then .off else s.bias) ∧ t.pending = s.pending ∧ t.sysclk = s.sysclk ∧
        t.attached = s.attached)

/-- R189: a level requested twice sends the same frames twice, and the second time changes no observable cell.
The spec derives it (from its rule R182). -/
def Obligations.SetbiasTwiceRepeats : Prop :=
  ∀ (l : BiasLevel) (s t u : State) (more : List TxEvent) (es : List TxEntry),
    Ready s → s.attached = true →
    Ends (.setbias l) s t ⟨.ok, 0#8, 0#32⟩ → Logged s t es →
    Ends (.setbias l) { t with answers := more } u ⟨.ok, 0#8, 0#32⟩ →
      Logged t u es ∧ CellsAre t u t.xAt ∧ u.bias = t.bias

/-! ## Suspend and resume -/

/-- R201: SUSPEND remembers the level first, then sends its three frames until one fails; `bias` is recorded
only if all three are accepted. What a failure leaves is the spec's own (decision D31). BadState is decision
D17. -/
def Obligations.SuspendPowersDown : Prop :=
  ∀ s : State, Ready s →
    (s.attached = false → exec .suspend s = .next (s.erred .badState 0#8)) ∧
    (∀ k err acc rest, s.attached = true → k < 2 → s.answers = accepted k ++ .answer err acc :: rest →
      txOk err acc = false →
      ∃ t, Ends .suspend s t ⟨.ioError, BitVec.ofNat 8 k, 0#32⟩ ∧ PortsKept s t ∧ t.answers = rest ∧
        Logged s t (List.replicate k (okEntry s.cfg.act 0#16) ++ [⟨frameOf s.cfg.act 0#16, false⟩]) ∧
        CellsAre s t (fun a => if a = s.cfg.act then 0#16 else s.xAt a) ∧
        FlagsAre t (fun a => if a = s.cfg.act then false else s.confAt a) ∧
        t.pending = s.bias ∧ t.bias = s.bias ∧ t.sysclk = s.sysclk ∧ t.attached = s.attached) ∧
    (∀ err acc rest, s.attached = true → s.answers = accepted 2 ++ .answer err acc :: rest →
      ∃ t, Ends .suspend s t (if txOk err acc then ⟨.ok, 0#8, 0#32⟩ else ⟨.ioError, 2#8, 0#32⟩) ∧
        PortsKept s t ∧ t.answers = rest ∧
        Logged s t [okEntry s.cfg.act 0#16, okEntry s.cfg.act 0#16,
          ⟨frameOf s.cfg.pwr 0xffff#16, txOk err acc⟩] ∧
        CellsAre s t (fun a => if a = s.cfg.pwr then 0xffff#16 else if a = s.cfg.act then 0#16 else s.xAt a) ∧
        FlagsAre t (fun a =>
          if a = s.cfg.pwr then txOk err acc else if a = s.cfg.act then true else s.confAt a) ∧
        t.pending = s.bias ∧ t.bias = (if txOk err acc then .off else s.bias) ∧ t.sysclk = s.sysclk ∧
        t.attached = s.attached)

/-- R202: whatever the transport answers, RESUME first sends every cell but `RST` once, in ascending order, with
the value the cell held when it began. Skipping RST and going on after a failure are the spec's own (decisions
D15 and D16). -/
def Obligations.ReplaySendsEveryCell : Prop :=
  ∀ (s t : State) (bs rest : List TxEvent), Ready s → s.attached = true → s.answers = bs ++ rest →
    bs.length = s.cfg.n - 1 → (∀ e ∈ bs, e.isAnswer = true) → exec .resume s = .next t →
      ∃ (as : List Addr) (es : List TxEntry),
        as.Pairwise (fun a b => a.toNat < b.toNat) ∧
        (∀ a, a ∈ as ↔ a.toNat < s.cfg.n ∧ a ≠ s.cfg.rst) ∧
        Logged s t (List.zipWith (fun a e => ⟨frameOf a (s.xAt a), e.isOk⟩) as bs ++ es)

/-- R204: RESUME with every frame accepted restores the pending level through Standby. On under decision D10,
the replay under D16. BadState is decision D17. -/
def Obligations.ResumeRestoresPending : Prop :=
  ∀ s : State, Ready s →
    (s.attached = false → exec .resume s = .next (s.erred .badState 0#8)) ∧
    (∀ rest, s.attached = true →
      s.answers = accepted (s.cfg.n - 1 + 1 +
        (match s.pending with | .on => 1 | .standby => 1 | .prepare => 0 | .off => 2)) ++ rest →
      ∃ t, Ends .resume s t ⟨.ok, 0#8, 0#32⟩ ∧ PortsKept s t ∧ t.answers = rest ∧
        Logged s t ((replayAddrs s.cfg).map (fun a => okEntry a (s.xAt a)) ++
          [okEntry s.cfg.pwr (s.xAt s.cfg.pwr ||| s.cfg.standbyMask)] ++
          (match s.pending with
            | .on => [okEntry s.cfg.pwr
                ((s.xAt s.cfg.pwr ||| s.cfg.standbyMask) &&& ~~~s.cfg.standbyMask)]
            | .standby => [okEntry s.cfg.pwr (s.xAt s.cfg.pwr ||| s.cfg.standbyMask)]
            | .prepare => []
            | .off => [okEntry s.cfg.act 0#16, okEntry s.cfg.pwr 0xffff#16])) ∧
        CellsAre s t (fun a =>
          if a = s.cfg.pwr then
            (match s.pending with
              | .on => (s.xAt s.cfg.pwr ||| s.cfg.standbyMask) &&& ~~~s.cfg.standbyMask
              | .standby => s.xAt s.cfg.pwr ||| s.cfg.standbyMask
              | .prepare => s.xAt s.cfg.pwr ||| s.cfg.standbyMask
              | .off => 0xffff#16)
          else if a = s.cfg.act ∧ s.pending = .off then 0#16 else s.xAt a) ∧
        FlagsAre t (fun a => if a = s.cfg.rst then s.confAt a else decide (a.toNat < s.cfg.n)) ∧
        t.bias = s.pending ∧ t.pending = s.pending ∧ t.sysclk = s.sysclk ∧ t.attached = s.attached)

/-- R202, R204: a failed frame does not end RESUME. Whatever the transport answers to the replay (`bs`) and to
the frames after it, the Standby step is done and then the step to the pending On, Standby or Prepare; each step
records its level only if its own frame is accepted, so the level left is that of the last step that succeeded.
Going on is the spec's own (decision D15); On under decision D10, the level under D14, the replay under D16, the
ordinal under D33. -/
def Obligations.ResumeGoesOnAfterFailure : Prop :=
  ∀ (s : State) (bs rest : List TxEvent) (e1 e2 : Bool) (c1 c2 : BitVec 2),
    Ready s → s.attached = true → bs.length = s.cfg.n - 1 → (∀ e ∈ bs, e.isAnswer = true) →
    let pwr := s.cfg.pwr
    let p := s.xAt pwr ||| s.cfg.standbyMask
    let level := if txOk e1 c1 then BiasLevel.standby else s.bias
    (s.pending = .on → s.answers = bs ++ .answer e1 c1 :: .answer e2 c2 :: rest →
      ∃ t, t.answers = rest ∧
        Resumed s t bs [(pwr, p, txOk e1 c1), (pwr, p &&& ~~~s.cfg.standbyMask, txOk e2 c2)]
          (if txOk e2 c2 then .on else level)) ∧
    (s.pending = .standby → s.answers = bs ++ .answer e1 c1 :: .answer e2 c2 :: rest →
      ∃ t, t.answers = rest ∧
        Resumed s t bs [(pwr, p, txOk e1 c1), (pwr, p, txOk e2 c2)] (if txOk e2 c2 then .standby else level)) ∧
    (s.pending = .prepare → s.answers = bs ++ .answer e1 c1 :: rest →
      ∃ t, t.answers = rest ∧ Resumed s t bs [(pwr, p, txOk e1 c1)] .prepare)

/-- R202, R204: RESUME with the pending level Off, whatever the transport answers: after the Standby step the
stream-active register is written; if that frame fails the Off step ends there, the power register is not
written again and Off is not recorded; else the power register is written with all ones, and Off is recorded if
that frame is accepted. Going on is the spec's own (decision D15); the level under decision D14, the replay
under D16, the ordinal under D33. -/
def Obligations.ResumeToOffGoesOnAfterFailure : Prop :=
  ∀ (s : State) (bs rest : List TxEvent) (e1 e2 : Bool) (c1 c2 : BitVec 2),
    Ready s → s.attached = true → s.pending = .off → bs.length = s.cfg.n - 1 → (∀ e ∈ bs, e.isAnswer = true) →
    let pwr := s.cfg.pwr
    let p := s.xAt pwr ||| s.cfg.standbyMask
    let level := if txOk e1 c1 then BiasLevel.standby else s.bias
    (s.answers = bs ++ .answer e1 c1 :: .answer e2 c2 :: rest → txOk e2 c2 = false →
      ∃ t, t.answers = rest ∧
        Resumed s t bs [(pwr, p, txOk e1 c1), (s.cfg.act, 0#16, false)] level) ∧
    (∀ (e3 : Bool) (c3 : BitVec 2),
      s.answers = bs ++ .answer e1 c1 :: .answer e2 c2 :: .answer e3 c3 :: rest → txOk e2 c2 = true →
      ∃ t, t.answers = rest ∧
        Resumed s t bs [(pwr, p, txOk e1 c1), (s.cfg.act, 0#16, true), (pwr, 0xffff#16, txOk e3 c3)]
          (if txOk e3 c3 then .off else level))

/-- R205: when SUSPEND and then RESUME both answer `Ok`, and nothing between them wrote `pending`, the level is
the one from before the SUSPEND. The spec derives it (from its rules R201, R202, R204); the replay under
decision D16. -/
def Obligations.SuspendThenResumeRestoresBias : Prop :=
  ∀ s t m u : State, Ready s → Ends .suspend s t ⟨.ok, 0#8, 0#32⟩ →
    Ready m → m.cfg = s.cfg → m.pending = t.pending → Ends .resume m u ⟨.ok, 0#8, 0#32⟩ →
      u.bias = s.bias ∧
      ∃ es, Logged m u ((replayAddrs m.cfg).map (fun a => okEntry a (m.xAt a)) ++ es)

/-- R271: the bits of the power register do not survive SUSPEND and RESUME: after both, at level On, every bit
but the standby bit is set. The spec derives it; On under decision D10. -/
def Obligations.PowerBitsLostBySuspend : Prop :=
  ∀ (s t u : State) (more : List TxEvent), Ready s → s.bias = .on → Ends .suspend s t ⟨.ok, 0#8, 0#32⟩ →
    Ends .resume { t with answers := more } u ⟨.ok, 0#8, 0#32⟩ →
      u.xAt u.cfg.pwr = 0xffff#16 &&& ~~~u.cfg.standbyMask

/-! ## Lifecycle -/

/-- R207: ATTACH seeds, sends its four frames until one fails, and is attached at Standby only when all four are
accepted; after a failure it is detached, with the clock and the writes already made. The order of the steps and
the OR-ing are the spec's own (decisions D12 and D18). BadState is decision D17. -/
def Obligations.AttachBringsUp : Prop :=
  ∀ (s : State) (clk : Hz), Ready s →
    let c := s.cfg
    let d := fun a : Addr => c.defaults.getD a.toNat 0#16
    let l := d c.involL ||| c.updateMask
    let r := d c.involR ||| c.updateMask
    let p := (if c.pwr = c.involL then l else if c.pwr = c.involR then r else d c.pwr) ||| c.standbyMask
    let frames : List (Addr × Value) := [(c.rst, 0#16), (c.involL, l), (c.involR, r), (c.pwr, p)]
    (s.attached = true → exec (.attach clk) s = .next (s.erred .badState 0#8)) ∧
    (∀ rest, s.attached = false → s.answers = accepted 4 ++ rest →
      ∃ t, Ends (.attach clk) s t ⟨.ok, 0#8, 0#32⟩ ∧ PortsKept s t ∧ t.answers = rest ∧
        Logged s t (frames.map fun f => okEntry f.1 f.2) ∧
        CellsAre s t (fun a => (frames.reverse.lookup a).getD (d a)) ∧
        FlagsAre t (fun a => decide (a ∈ frames.map Prod.fst)) ∧
        t.attached = true ∧ t.bias = .standby ∧ t.pending = .off ∧ t.sysclk = clk) ∧
    (∀ k f err acc rest, s.attached = false → frames[k]? = some f →
      s.answers = accepted k ++ .answer err acc :: rest → txOk err acc = false →
      ∃ t, Ends (.attach clk) s t ⟨.ioError, BitVec.ofNat 8 k, 0#32⟩ ∧ PortsKept s t ∧ t.answers = rest ∧
        Logged s t ((frames.take k).map (fun g => okEntry g.1 g.2) ++ [⟨frameOf f.1 f.2, false⟩]) ∧
        CellsAre s t (fun a => ((frames.take (k + 1)).reverse.lookup a).getD (d a)) ∧
        FlagsAre t (fun a => decide (a ∈ (frames.take k).map Prod.fst ∧ a ≠ f.1)) ∧
        t.attached = false ∧ t.bias = .off ∧ t.pending = .off ∧ t.sysclk = clk)

/-- R208: DETACH seeds, detaches and sends nothing. Seeding at once is the spec's own (decision D19). BadState
is decision D17. -/
def Obligations.DetachSeeds : Prop :=
  ∀ s : State, Ready s →
    (s.attached = false → exec .detach s = .next (s.erred .badState 0#8)) ∧
    (s.attached = true →
      ∃ t, Ends .detach s t ⟨.ok, 0#8, 0#32⟩ ∧ PortsKept s t ∧ t.answers = s.answers ∧ Logged s t [] ∧
        CellsAre s t (fun a => s.cfg.defaults.getD a.toNat 0#16) ∧ FlagsAre t (fun _ => false) ∧
        t.attached = false ∧ t.bias = .off ∧ t.pending = .off ∧ t.sysclk = 0#32)

/-- R209, with the codes of R86: GETSTAT reports the control state or the clock, attached or not; the levels
Off, Standby, Prepare and On are reported as 0, 1, 2 and 3. The command and the codes are the spec's own
(decisions D30 and D23). -/
def Obligations.GetstatReportsControl : Prop :=
  (BiasLevel.off.code = 0#2 ∧ BiasLevel.standby.code = 1#2 ∧ BiasLevel.prepare.code = 2#2 ∧
    BiasLevel.on.code = 3#2) ∧
  ∀ s : State, Ready s →
    (∃ d : BitVec 32,
      d.toNat = 16 * s.attached.toNat + 4 * s.pending.code.toNat + s.bias.code.toNat ∧
      exec (.getstat false) s = .next { s with rsp := some ⟨.ok, 0#8, d⟩ }) ∧
    exec (.getstat true) s = .next { s with rsp := some ⟨.ok, 0#8, s.sysclk⟩ }
end

