-- ==== Sys2Proof/Laws/Decode.lean ====
section
/-! SUPPORT. The fields of a packed command word, the operands in their fields, and the shape of the decoder's
answers. -/

namespace Sys2Proof

namespace CmdWord

@[simp] theorem op_pack (o f : BitVec 4) (a b : BitVec 32) : op (pack o f a b) = o := by
  apply BitVec.eq_of_getLsbD_eq
  intro i hi
  simp only [op, pack, BitVec.getLsbD_extractLsb', BitVec.getLsbD_setWidth, BitVec.getLsbD_append]
  rw [if_neg (by omega), if_neg (by omega), if_neg (by omega)]
  simp [hi, show 68 + i < 72 by omega, show 68 + i - 32 - 32 - 4 = i by omega]

@[simp] theorem fl_pack (o f : BitVec 4) (a b : BitVec 32) : fl (pack o f a b) = f := by
  apply BitVec.eq_of_getLsbD_eq
  intro i hi
  simp only [fl, pack, BitVec.getLsbD_extractLsb', BitVec.getLsbD_setWidth, BitVec.getLsbD_append]
  rw [if_neg (by omega), if_neg (by omega), if_pos (by omega)]
  simp [hi, show 64 + i < 72 by omega, show 64 + i - 32 - 32 = i by omega]

@[simp] theorem opA_pack (o f : BitVec 4) (a b : BitVec 32) : opA (pack o f a b) = a := by
  apply BitVec.eq_of_getLsbD_eq
  intro i hi
  simp only [opA, pack, BitVec.getLsbD_extractLsb', BitVec.getLsbD_setWidth, BitVec.getLsbD_append]
  rw [if_neg (by omega), if_pos (by omega)]
  simp [hi, show 32 + i < 72 by omega]

@[simp] theorem opB_pack (o f : BitVec 4) (a b : BitVec 32) : opB (pack o f a b) = b := by
  apply BitVec.eq_of_getLsbD_eq
  intro i hi
  simp only [opB, pack, BitVec.getLsbD_extractLsb', BitVec.getLsbD_setWidth, BitVec.getLsbD_append]
  rw [if_pos (by omega)]
  simp [hi, show i < 72 by omega]

/-- A word is its four fields. -/
theorem pack_fields (w : CmdWord) : pack (op w) (fl w) (opA w) (opB w) = w := by
  apply BitVec.eq_of_getLsbD_eq
  intro i hi
  simp only [pack, op, fl, opA, opB, BitVec.getLsbD_extractLsb', BitVec.getLsbD_setWidth, BitVec.getLsbD_append]
  by_cases h1 : i < 32
  · simp [h1, hi]
  by_cases h2 : i - 32 < 32
  · simp [h1, h2, hi, show 32 + (i - 32) = i by omega]
  by_cases h3 : i - 32 - 32 < 4
  · simp [h1, h2, h3, hi, show 64 + (i - 32 - 32) = i by omega]
  · simp [h1, h2, h3, hi, show 68 + (i - 32 - 32 - 4) = i by omega, show i - 32 - 32 - 4 < 4 by omega]

end CmdWord

/-- The low part of a zero-extended operand is the operand. -/
@[simp] theorem low_of_setWidth {n k : Nat} (h : k ≤ n) (a : BitVec k) : (a.setWidth n).extractLsb' 0 k = a := by
  apply BitVec.eq_of_getLsbD_eq
  intro i hi
  simp only [BitVec.getLsbD_extractLsb', BitVec.getLsbD_setWidth]
  simp [hi, show i < n by omega]

/-- The rest of a zero-extended operand is zero. -/
theorem high_of_setWidth {n k m : Nat} (a : BitVec k) : (a.setWidth n).extractLsb' k m = 0#m := by
  apply BitVec.eq_of_getLsbD_eq
  intro i hi
  simp only [BitVec.getLsbD_extractLsb', BitVec.getLsbD_setWidth]
  simp [hi]

/-- A word whose high part is zero is its low part zero-extended. -/
theorem setWidth_low {n : Nat} (k m : Nat) (hk : n = k + m) (b : BitVec n) (h : b.extractLsb' k m = 0#m) :
    (b.extractLsb' 0 k).setWidth n = b := by
  apply BitVec.eq_of_getLsbD_eq
  intro i hi
  simp only [BitVec.getLsbD_extractLsb', BitVec.getLsbD_setWidth]
  by_cases hik : i < k
  · simp [hi, hik]
  · have := congrArg (fun v => v.getLsbD (i - k)) h
    simp [show i - k < m by omega, show k + (i - k) = i by omega] at this
    simp [hik, this]

/-- The low bit of a Boolean operand is the Boolean. -/
theorem boolWord_low (k : Nat) (h : 0 < k) (b : Bool) : (boolWord k b).getLsbD 0 = b := by
  simp [boolWord, h]

@[simp] theorem boolWord_get4 (b : Bool) : (boolWord 4 b)[0] = b := by simp [boolWord]

@[simp] theorem boolWord_get32 (b : Bool) : (boolWord 32 b)[0] = b := by simp [boolWord]

theorem boolWord_high (k m : Nat) (b : Bool) : (boolWord k b).extractLsb' 1 m = 0#m := by
  unfold boolWord
  exact high_of_setWidth _

theorem boolWord_of_high {n : Nat} (m : Nat) (hk : n = 1 + m) (b : BitVec n) (h : b.extractLsb' 1 m = 0#m) :
    boolWord n (b.getLsbD 0) = b := by
  have := setWidth_low 1 m hk b h
  rw [boolWord]
  conv => rhs; rw [← this]
  congr 1
  apply BitVec.eq_of_getLsbD_eq
  intro i hi
  obtain rfl : i = 0 := by omega
  simp

theorem ofCode_code (l : BiasLevel) : BiasLevel.ofCode l.code = l := by cases l <;> rfl

theorem code_ofCode (b : BitVec 2) : (BiasLevel.ofCode b).code = b := by
  revert b; decide

/-- The decoder answers a command only where the fields that must be zero are. -/
theorem whenZero_ok {z : Bool} {i j : Instr} (h : whenZero z i = .ok j) : z = true ∧ i = j := by
  unfold whenZero at h
  split at h
  · cases h
    exact ⟨‹_›, rfl⟩
  · cases h

end Sys2Proof
end

