-- ==== Sys2Proof/Laws/State.lean ====
section
/-! SUPPORT. One lemma for each field of the state under each named update, so that no proof unfolds an update. -/

namespace Sys2Proof.Machine

/-! ## withCell -/

@[simp] theorem State.withCell_cfg (s : State) (a : Addr) (v : Value) : (s.withCell a v).cfg = s.cfg := rfl
@[simp] theorem State.withCell_x (s : State) (a : Addr) (v : Value) : (s.withCell a v).x = s.x.set a.toNat v := rfl
@[simp] theorem State.withCell_conf (s : State) (a : Addr) (v : Value) :
    (s.withCell a v).conf = confCleared s.conf a := rfl
@[simp] theorem State.withCell_bias (s : State) (a : Addr) (v : Value) : (s.withCell a v).bias = s.bias := rfl
@[simp] theorem State.withCell_pending (s : State) (a : Addr) (v : Value) :
    (s.withCell a v).pending = s.pending := rfl
@[simp] theorem State.withCell_sysclk (s : State) (a : Addr) (v : Value) : (s.withCell a v).sysclk = s.sysclk := rfl
@[simp] theorem State.withCell_attached (s : State) (a : Addr) (v : Value) :
    (s.withCell a v).attached = s.attached := rfl
@[simp] theorem State.withCell_seq (s : State) (a : Addr) (v : Value) : (s.withCell a v).seq = s.seq := rfl
@[simp] theorem State.withCell_txlog (s : State) (a : Addr) (v : Value) : (s.withCell a v).txlog = s.txlog := rfl
@[simp] theorem State.withCell_rsp (s : State) (a : Addr) (v : Value) : (s.withCell a v).rsp = s.rsp := rfl
@[simp] theorem State.withCell_host (s : State) (a : Addr) (v : Value) : (s.withCell a v).host = s.host := rfl
@[simp] theorem State.withCell_answers (s : State) (a : Addr) (v : Value) :
    (s.withCell a v).answers = s.answers := rfl

/-! ## seed -/

@[simp] theorem State.seed_cfg (s : State) : (s.seed).cfg = s.cfg := rfl
@[simp] theorem State.seed_x (s : State) : (s.seed).x = s.cfg.defaults := rfl
@[simp] theorem State.seed_conf (s : State) : (s.seed).conf = confSeeded s.cfg := rfl
@[simp] theorem State.seed_bias (s : State) : (s.seed).bias = .off := rfl
@[simp] theorem State.seed_pending (s : State) : (s.seed).pending = .off := rfl
@[simp] theorem State.seed_sysclk (s : State) : (s.seed).sysclk = 0#32 := rfl
@[simp] theorem State.seed_attached (s : State) : (s.seed).attached = s.attached := rfl
@[simp] theorem State.seed_seq (s : State) : (s.seed).seq = s.seq := rfl
@[simp] theorem State.seed_txlog (s : State) : (s.seed).txlog = s.txlog := rfl
@[simp] theorem State.seed_rsp (s : State) : (s.seed).rsp = s.rsp := rfl
@[simp] theorem State.seed_host (s : State) : (s.seed).host = s.host := rfl
@[simp] theorem State.seed_answers (s : State) : (s.seed).answers = s.answers := rfl

/-! ## hardwareReset -/

@[simp] theorem State.hardwareReset_cfg (s : State) : (s.hardwareReset).cfg = s.cfg := rfl
@[simp] theorem State.hardwareReset_x (s : State) : (s.hardwareReset).x = s.cfg.defaults := rfl
@[simp] theorem State.hardwareReset_conf (s : State) : (s.hardwareReset).conf = confSeeded s.cfg := rfl
@[simp] theorem State.hardwareReset_bias (s : State) : (s.hardwareReset).bias = .off := rfl
@[simp] theorem State.hardwareReset_pending (s : State) : (s.hardwareReset).pending = .off := rfl
@[simp] theorem State.hardwareReset_sysclk (s : State) : (s.hardwareReset).sysclk = 0#32 := rfl
@[simp] theorem State.hardwareReset_attached (s : State) : (s.hardwareReset).attached = false := rfl
@[simp] theorem State.hardwareReset_seq (s : State) : (s.hardwareReset).seq = none := rfl
@[simp] theorem State.hardwareReset_txlog (s : State) : (s.hardwareReset).txlog = [] := rfl
@[simp] theorem State.hardwareReset_rsp (s : State) : (s.hardwareReset).rsp = none := rfl
@[simp] theorem State.hardwareReset_host (s : State) : (s.hardwareReset).host = s.host := rfl
@[simp] theorem State.hardwareReset_answers (s : State) : (s.hardwareReset).answers = s.answers := rfl

/-! ## respond -/

@[simp] theorem State.respond_cfg (s : State) (r : Response) : (s.respond r).cfg = s.cfg := rfl
@[simp] theorem State.respond_x (s : State) (r : Response) : (s.respond r).x = s.x := rfl
@[simp] theorem State.respond_conf (s : State) (r : Response) : (s.respond r).conf = s.conf := rfl
@[simp] theorem State.respond_bias (s : State) (r : Response) : (s.respond r).bias = s.bias := rfl
@[simp] theorem State.respond_pending (s : State) (r : Response) : (s.respond r).pending = s.pending := rfl
@[simp] theorem State.respond_sysclk (s : State) (r : Response) : (s.respond r).sysclk = s.sysclk := rfl
@[simp] theorem State.respond_attached (s : State) (r : Response) : (s.respond r).attached = s.attached := rfl
@[simp] theorem State.respond_seq (s : State) (r : Response) : (s.respond r).seq = none := rfl
@[simp] theorem State.respond_txlog (s : State) (r : Response) : (s.respond r).txlog = s.txlog := rfl
@[simp] theorem State.respond_rsp (s : State) (r : Response) : (s.respond r).rsp = some r := rfl
@[simp] theorem State.respond_host (s : State) (r : Response) : (s.respond r).host = s.host := rfl
@[simp] theorem State.respond_answers (s : State) (r : Response) : (s.respond r).answers = s.answers := rfl

/-! ## raise -/

@[simp] theorem State.raise_cfg (s : State) (st : Status) (k : BitVec 8) : (s.raise st k).cfg = s.cfg := rfl
@[simp] theorem State.raise_x (s : State) (st : Status) (k : BitVec 8) : (s.raise st k).x = s.x := rfl
@[simp] theorem State.raise_conf (s : State) (st : Status) (k : BitVec 8) : (s.raise st k).conf = s.conf := rfl
@[simp] theorem State.raise_bias (s : State) (st : Status) (k : BitVec 8) : (s.raise st k).bias = s.bias := rfl
@[simp] theorem State.raise_pending (s : State) (st : Status) (k : BitVec 8) :
    (s.raise st k).pending = s.pending := rfl
@[simp] theorem State.raise_sysclk (s : State) (st : Status) (k : BitVec 8) : (s.raise st k).sysclk = s.sysclk := rfl
@[simp] theorem State.raise_attached (s : State) (st : Status) (k : BitVec 8) :
    (s.raise st k).attached = s.attached := rfl
@[simp] theorem State.raise_seq (s : State) (st : Status) (k : BitVec 8) : (s.raise st k).seq = none := rfl
@[simp] theorem State.raise_txlog (s : State) (st : Status) (k : BitVec 8) : (s.raise st k).txlog = s.txlog := rfl
@[simp] theorem State.raise_rsp (s : State) (st : Status) (k : BitVec 8) :
    (s.raise st k).rsp = some (Response.error st k) := rfl
@[simp] theorem State.raise_host (s : State) (st : Status) (k : BitVec 8) : (s.raise st k).host = s.host := rfl
@[simp] theorem State.raise_answers (s : State) (st : Status) (k : BitVec 8) :
    (s.raise st k).answers = s.answers := rfl

/-! ## sent -/

@[simp] theorem State.sent_cfg (s : State) (a : Addr) (ok : Bool) (es : List TxEvent) :
    (s.sent a ok es).cfg = s.cfg := rfl
@[simp] theorem State.sent_x (s : State) (a : Addr) (ok : Bool) (es : List TxEvent) : (s.sent a ok es).x = s.x := rfl
@[simp] theorem State.sent_conf (s : State) (a : Addr) (ok : Bool) (es : List TxEvent) :
    (s.sent a ok es).conf = confSent s.conf a ok := rfl
@[simp] theorem State.sent_bias (s : State) (a : Addr) (ok : Bool) (es : List TxEvent) :
    (s.sent a ok es).bias = s.bias := rfl
@[simp] theorem State.sent_pending (s : State) (a : Addr) (ok : Bool) (es : List TxEvent) :
    (s.sent a ok es).pending = s.pending := rfl
@[simp] theorem State.sent_sysclk (s : State) (a : Addr) (ok : Bool) (es : List TxEvent) :
    (s.sent a ok es).sysclk = s.sysclk := rfl
@[simp] theorem State.sent_attached (s : State) (a : Addr) (ok : Bool) (es : List TxEvent) :
    (s.sent a ok es).attached = s.attached := rfl
@[simp] theorem State.sent_seq (s : State) (a : Addr) (ok : Bool) (es : List TxEvent) :
    (s.sent a ok es).seq = s.seq := rfl
@[simp] theorem State.sent_txlog (s : State) (a : Addr) (ok : Bool) (es : List TxEvent) :
    (s.sent a ok es).txlog = s.txlog ++ [⟨frameOf a (s.xAt a), ok⟩] := rfl
@[simp] theorem State.sent_rsp (s : State) (a : Addr) (ok : Bool) (es : List TxEvent) :
    (s.sent a ok es).rsp = s.rsp := rfl
@[simp] theorem State.sent_host (s : State) (a : Addr) (ok : Bool) (es : List TxEvent) :
    (s.sent a ok es).host = s.host := rfl
@[simp] theorem State.sent_answers (s : State) (a : Addr) (ok : Bool) (es : List TxEvent) :
    (s.sent a ok es).answers = es := rfl

/-! ## erred -/

@[simp] theorem State.erred_cfg (s : State) (st : Status) (k : BitVec 8) : (s.erred st k).cfg = s.cfg := rfl
@[simp] theorem State.erred_x (s : State) (st : Status) (k : BitVec 8) : (s.erred st k).x = s.x := rfl
@[simp] theorem State.erred_conf (s : State) (st : Status) (k : BitVec 8) : (s.erred st k).conf = s.conf := rfl
@[simp] theorem State.erred_bias (s : State) (st : Status) (k : BitVec 8) : (s.erred st k).bias = s.bias := rfl
@[simp] theorem State.erred_pending (s : State) (st : Status) (k : BitVec 8) :
    (s.erred st k).pending = s.pending := rfl
@[simp] theorem State.erred_sysclk (s : State) (st : Status) (k : BitVec 8) : (s.erred st k).sysclk = s.sysclk := rfl
@[simp] theorem State.erred_attached (s : State) (st : Status) (k : BitVec 8) :
    (s.erred st k).attached = s.attached := rfl
@[simp] theorem State.erred_seq (s : State) (st : Status) (k : BitVec 8) : (s.erred st k).seq = s.seq := rfl
@[simp] theorem State.erred_txlog (s : State) (st : Status) (k : BitVec 8) : (s.erred st k).txlog = s.txlog := rfl
@[simp] theorem State.erred_rsp (s : State) (st : Status) (k : BitVec 8) :
    (s.erred st k).rsp = some ⟨st, k, 0#32⟩ := rfl
@[simp] theorem State.erred_host (s : State) (st : Status) (k : BitVec 8) : (s.erred st k).host = s.host := rfl
@[simp] theorem State.erred_answers (s : State) (st : Status) (k : BitVec 8) :
    (s.erred st k).answers = s.answers := rfl

/-! ## offering -/

@[simp] theorem State.offering_cfg (s : State) (w : CmdWord) : (s.offering w).cfg = s.cfg := rfl
@[simp] theorem State.offering_x (s : State) (w : CmdWord) : (s.offering w).x = s.x := rfl
@[simp] theorem State.offering_conf (s : State) (w : CmdWord) : (s.offering w).conf = s.conf := rfl
@[simp] theorem State.offering_bias (s : State) (w : CmdWord) : (s.offering w).bias = s.bias := rfl
@[simp] theorem State.offering_pending (s : State) (w : CmdWord) : (s.offering w).pending = s.pending := rfl
@[simp] theorem State.offering_sysclk (s : State) (w : CmdWord) : (s.offering w).sysclk = s.sysclk := rfl
@[simp] theorem State.offering_attached (s : State) (w : CmdWord) : (s.offering w).attached = s.attached := rfl
@[simp] theorem State.offering_seq (s : State) (w : CmdWord) : (s.offering w).seq = none := rfl
@[simp] theorem State.offering_txlog (s : State) (w : CmdWord) : (s.offering w).txlog = s.txlog := rfl
@[simp] theorem State.offering_rsp (s : State) (w : CmdWord) : (s.offering w).rsp = s.rsp := rfl
@[simp] theorem State.offering_host (s : State) (w : CmdWord) : (s.offering w).host = .command w :: s.host := rfl
@[simp] theorem State.offering_answers (s : State) (w : CmdWord) : (s.offering w).answers = s.answers := rfl

/-! ## resetWith -/

@[simp] theorem State.resetWith_cfg (c : Cfg) : (State.resetWith c).cfg = c := rfl
@[simp] theorem State.resetWith_x (c : Cfg) : (State.resetWith c).x = c.defaults := rfl
@[simp] theorem State.resetWith_conf (c : Cfg) : (State.resetWith c).conf = List.replicate c.n false := rfl
@[simp] theorem State.resetWith_bias (c : Cfg) : (State.resetWith c).bias = .off := rfl
@[simp] theorem State.resetWith_pending (c : Cfg) : (State.resetWith c).pending = .off := rfl
@[simp] theorem State.resetWith_sysclk (c : Cfg) : (State.resetWith c).sysclk = 0#32 := rfl
@[simp] theorem State.resetWith_attached (c : Cfg) : (State.resetWith c).attached = false := rfl
@[simp] theorem State.resetWith_seq (c : Cfg) : (State.resetWith c).seq = none := rfl
@[simp] theorem State.resetWith_txlog (c : Cfg) : (State.resetWith c).txlog = [] := rfl
@[simp] theorem State.resetWith_rsp (c : Cfg) : (State.resetWith c).rsp = none := rfl
@[simp] theorem State.resetWith_host (c : Cfg) : (State.resetWith c).host = [] := rfl
@[simp] theorem State.resetWith_answers (c : Cfg) : (State.resetWith c).answers = [] := rfl

/-! ## The sequencer's bookkeeping -/

@[simp] theorem Sequencer.counted_fcnt (q : Sequencer) : q.counted.fcnt = q.fcnt + 1#8 := rfl
@[simp] theorem Sequencer.counted_firstFail (q : Sequencer) : q.counted.firstFail = q.firstFail := rfl
@[simp] theorem Sequencer.counted_reply (q : Sequencer) : q.counted.reply = q.reply := rfl
@[simp] theorem Sequencer.noted_fcnt (q : Sequencer) : q.noted.fcnt = q.fcnt := rfl
@[simp] theorem Sequencer.noted_firstFail (q : Sequencer) :
    q.noted.firstFail = q.firstFail.or (some q.fcnt) := rfl
@[simp] theorem Sequencer.noted_reply (q : Sequencer) : q.noted.reply = q.reply := rfl

end Sys2Proof.Machine
end

