-- ==== Sys2Proof/Laws/Ops.lean ====
section
/-! SUPPORT. The laws of the shared operations: what the cache ports give, everything one step of a command can do
to the state, and what a run of steps keeps. -/

namespace Sys2Proof.Machine

/-! ## The cache ports -/

theorem State.memRead_rst (s : State) : s.memRead s.cfg.rst = some 0#16 := by simp [State.memRead]

theorem State.memRead_cell {s : State} {a : Addr} (h : a ≠ s.cfg.rst) (ha : a.toNat < s.cfg.n) :
    s.memRead a = some (s.xAt a) := by simp [State.memRead, h, ha]

theorem State.memRead_outside {s : State} {a : Addr} (h : a ≠ s.cfg.rst) (ha : s.cfg.n ≤ a.toNat) :
    s.memRead a = none := by simp [State.memRead, h, Nat.not_lt.mpr ha]

theorem State.memWrite_cell {s : State} {a : Addr} (v : Value) (ha : a.toNat < s.cfg.n) :
    s.memWrite a v = some (s.withCell a v) := by simp [State.memWrite, ha]

theorem State.memWrite_outside {s : State} {a : Addr} (v : Value) (ha : s.cfg.n ≤ a.toNat) :
    s.memWrite a v = none := by simp [State.memWrite, Nat.not_lt.mpr ha]

/-- A checked write changes the state to the one with the cell written, and only below `N`. -/
theorem State.memWrite_eq_some {s t : State} {a : Addr} {v : Value} (h : s.memWrite a v = some t) :
    a.toNat < s.cfg.n ∧ t = s.withCell a v := by
  unfold State.memWrite at h
  split at h
  · exact ⟨‹_›, (Option.some.inj h).symm⟩
  · cases h

theorem State.xAt_withCell {s : State} {a : Addr} (v : Value) (ha : a.toNat < s.x.length) (b : Addr) :
    (s.withCell a v).xAt b = if b = a then v else s.xAt b := by
  by_cases h : b = a
  · subst h; simp [State.xAt, ha]
  · have : a.toNat ≠ b.toNat := fun e => h (BitVec.eq_of_toNat_eq e.symm)
    simp [State.xAt, h, this]

theorem confAt_set (conf : List Bool) (a b : Addr) (v : Bool) :
    (conf.set a.toNat v).getD b.toNat false
      = if b = a then (v && decide (a.toNat < conf.length)) else conf.getD b.toNat false := by
  by_cases h : b = a
  · subst h
    by_cases hl : b.toNat < conf.length <;> simp [hl]
  · have : a.toNat ≠ b.toNat := fun e => h (BitVec.eq_of_toNat_eq e.symm)
    simp [h, this]

theorem State.confAt_withCell (s : State) (a : Addr) (v : Value) (b : Addr) :
    (s.withCell a v).confAt b = if b = a then false else s.confAt b := by
  simp only [State.confAt, State.withCell_conf, confCleared, confAt_set, Bool.false_and]

theorem State.confAt_sent {s : State} {a : Addr} (ok : Bool) (es : List TxEvent) (ha : a.toNat < s.conf.length)
    (b : Addr) : (s.sent a ok es).confAt b = if b = a then ok else s.confAt b := by
  simp only [State.confAt, State.sent_conf, confSent, confAt_set, ha, decide_true, Bool.and_true]

theorem State.confAt_sent_le (s : State) (a : Addr) (ok : Bool) (es : List TxEvent) (b : Addr) :
    (s.sent a ok es).confAt b = if b = a then (ok && decide (a.toNat < s.conf.length)) else s.confAt b := by
  simp only [State.confAt, State.sent_conf, confSent, confAt_set]

@[simp] theorem State.xAt_sent (s : State) (a : Addr) (ok : Bool) (es : List TxEvent) :
    (s.sent a ok es).xAt = s.xAt := rfl
@[simp] theorem State.xAt_respond (s : State) (r : Response) : (s.respond r).xAt = s.xAt := rfl
@[simp] theorem State.confAt_respond (s : State) (r : Response) : (s.respond r).confAt = s.confAt := rfl
@[simp] theorem State.xAt_raise (s : State) (st : Status) (k : BitVec 8) : (s.raise st k).xAt = s.xAt := rfl
@[simp] theorem State.confAt_raise (s : State) (st : Status) (k : BitVec 8) : (s.raise st k).confAt = s.confAt := rfl

/-! ## One step of a command -/

/-- A result leaves the state `t` behind. -/
def OpResult.Leaves : OpResult → State → Prop
  | .go s _, t => s = t
  | .skip s _, t => s = t
  | .wait, _ => False
  | .raised s _ _, t => s = t

/-- Everything one step of a command can do to the state. -/
theorem microOp_leaves {op : MicroOp} {s t : State} {q : Sequencer} (h : (microOp op s q).Leaves t) :
    t = s ∨ t = s.seed ∨ (∃ clk, t = { s with sysclk := clk }) ∨ t = { s with pending := s.bias } ∨
    (∃ a v, a.toNat < s.cfg.n ∧ t = s.withCell a v) ∨ (∃ a ok rest, t = s.sent a ok rest) ∨
    (∃ l, t = { s with bias := l }) ∨ (∃ b, t = { s with attached := b }) := by
  cases op with
  | seed => exact .inr (.inl h.symm)
  | setSysclk clk => exact .inr (.inr (.inl ⟨clk, h.symm⟩))
  | savePending => exact .inr (.inr (.inr (.inl h.symm)))
  | write a src =>
    simp only [microOp, writeOp] at h
    split at h
    · rename_i u hu
      obtain ⟨v, -, hv⟩ := Option.bind_eq_some_iff.mp hu
      obtain ⟨ha, rfl⟩ := State.memWrite_eq_some hv
      exact .inr (.inr (.inr (.inr (.inl ⟨a, v, ha, h.symm⟩))))
    · exact .inl h.symm
  | send a f =>
    simp only [microOp, sendOp] at h
    refine .inr (.inr (.inr (.inr (.inr (.inl ?_)))))
    split at h
    · split at h
      · exact ⟨a, _, _, h.symm⟩
      · cases f <;> exact ⟨a, _, _, h.symm⟩
    · exact h.elim
    · exact h.elim
  | stage => exact .inl h.symm
  | recordBias l => exact .inr (.inr (.inr (.inr (.inr (.inr (.inl ⟨l, h.symm⟩))))))
  | setAttached b => exact .inr (.inr (.inr (.inr (.inr (.inr (.inr ⟨b, h.symm⟩))))))

/-! ## Running the steps -/

/-- What every step keeps, and what does not look at the sequencer or the response port, holds after a run. -/
theorem runOps_keeps {P : State → Prop}
    (hop : ∀ op s q t, (microOp op s q).Leaves t → P s → P t)
    (hend : ∀ s o r, P s → P { s with seq := o, rsp := r }) :
    ∀ (ops : List MicroOp) (skipping : Bool) (s : State) (q : Sequencer), P s → P (runOps skipping ops s q)
  | [], _, s, q, h => hend s _ _ h
  | op :: ops, skipping, s, q, h => by
    have ih := runOps_keeps hop hend ops
    unfold runOps
    split
    · exact ih _ _ _ h
    · have hl := hop op s q
      split <;> rename_i he <;> rw [he] at hl
      · exact ih _ _ _ (hl _ rfl h)
      · exact ih _ _ _ (hl _ rfl h)
      · exact hend s _ s.rsp h
      · exact hend _ _ _ (hl _ rfl h)

/-- A run keeps the configuration and what waits at the command port. -/
theorem runOps_ports (skipping : Bool) (ops : List MicroOp) (s : State) (q : Sequencer) :
    PortsKept s (runOps skipping ops s q) := by
  refine runOps_keeps (P := PortsKept s) ?_ (fun _ _ _ h => ⟨h.cfg, h.host⟩) ops skipping s q ⟨rfl, rfl⟩
  intro op t q u hl h
  rcases microOp_leaves hl with rfl | rfl | ⟨_, rfl⟩ | rfl | ⟨_, _, _, rfl⟩ | ⟨_, _, _, rfl⟩ | ⟨_, rfl⟩ | ⟨_, rfl⟩ <;>
    exact ⟨h.cfg, h.host⟩

theorem shaped_iff (s : State) : Shaped s ↔ s.cfg.wf = true ∧ s.x.length = s.cfg.n ∧ s.conf.length = s.cfg.n := by
  simp [Shaped, Memory.wf]

theorem Cfg.wf_defaults {c : Cfg} (h : c.wf = true) : c.defaults.length = c.n := by
  simp only [Cfg.wf, Cfg.wfCount, Bool.and_eq_true, beq_iff_eq] at h
  exact h.1.1.1.1.1.2

theorem Cfg.wf_count {c : Cfg} (h : c.wf = true) : 1 ≤ c.n ∧ c.n ≤ 128 := by
  simp only [Cfg.wf, Cfg.wfCount, Bool.and_eq_true, decide_eq_true_eq] at h
  exact h.1.1.1.1.1.1

/-- Every named address has a cell. -/
theorem Cfg.wf_named {c : Cfg} (h : c.wf = true) :
    c.rst.toNat < c.n ∧ c.pwr.toNat < c.n ∧ c.act.toNat < c.n ∧ c.iface.toNat < c.n ∧ c.srate.toNat < c.n ∧
      c.dig.toNat < c.n ∧ c.involL.toNat < c.n ∧ c.involR.toNat < c.n := by
  simp only [Cfg.wf, Cfg.wfRange, Bool.and_eq_true, Cfg.named] at h
  simpa using h.1.1.1.1.2

/-- The named addresses that differ. -/
theorem Cfg.wf_apart {c : Cfg} (h : c.wf = true) :
    (c.pwr ≠ c.rst ∧ c.act ≠ c.rst ∧ c.iface ≠ c.rst ∧ c.srate ≠ c.rst ∧ c.dig ≠ c.rst ∧ c.involL ≠ c.rst ∧
      c.involR ≠ c.rst) ∧ c.pwr ≠ c.act ∧ c.involL ≠ c.involR := by
  simp only [Cfg.wf, Cfg.wfApart, Bool.and_eq_true, Cfg.named] at h
  obtain ⟨⟨h1, h2⟩, h3⟩ := h.1.1.1.2
  simp only [bne_iff_ne, ne_eq] at h2 h3
  simp only [Bool.not_eq_true', List.contains_eq_mem, List.mem_cons, List.not_mem_nil, or_false,
    decide_eq_false_iff_not, not_or] at h1
  obtain ⟨a1, a2, a3, a4, a5, a6, a7⟩ := h1
  exact ⟨⟨Ne.symm a1, Ne.symm a2, Ne.symm a3, Ne.symm a4, Ne.symm a5, Ne.symm a6, Ne.symm a7⟩, h2, h3⟩

/-- Every memory operation keeps the shape of the cache. -/
theorem microOp_shaped {op : MicroOp} {s t : State} {q : Sequencer} (hl : (microOp op s q).Leaves t)
    (h : Shaped s) : Shaped t := by
  rw [shaped_iff] at h ⊢
  rcases microOp_leaves hl with rfl | rfl | ⟨_, rfl⟩ | rfl | ⟨_, _, _, rfl⟩ | ⟨_, _, _, rfl⟩ | ⟨_, rfl⟩ | ⟨_, rfl⟩ <;>
    simp_all [confSeeded, confCleared, confSent, Cfg.wf_defaults]

theorem runOps_shaped (skipping : Bool) (ops : List MicroOp) {s : State} (q : Sequencer) (h : Shaped s) :
    Shaped (runOps skipping ops s q) :=
  runOps_keeps (fun _ _ _ _ hl => microOp_shaped hl) (fun _ _ _ h => h) ops skipping s q h

/-! ## The check before every command -/

/-- What a command with the requirement `need` can lead to. -/
theorem State.command_eq_next {s t : State} {need : Need} {body : State → State}
    (h : s.command need body = .next t) :
    s.cfg.wf = true ∧ s.seq = none ∧
      (need.met s.attached = true ∧ t = body { s with rsp := none } ∨
        need.met s.attached = false ∧ t = s.raise .badState 0#8) := by
  unfold State.command at h
  split at h
  · cases h
  split at h
  · cases h
  rename_i hwf hseq
  have hs : s.seq = none := by simpa using hseq
  split at h <;> cases h
  · exact ⟨by simpa using hwf, hs, .inl ⟨‹_›, rfl⟩⟩
  · exact ⟨by simpa using hwf, hs, .inr ⟨by simp_all, rfl⟩⟩

/-- A command looks at its body in one state only. -/
theorem State.command_congr {s : State} {need : Need} {b b' : State → State}
    (h : b { s with rsp := none } = b' { s with rsp := none }) : s.command need b = s.command need b' := by
  simp only [State.command, h]

/-- A ready block runs the body of a command whose requirement is met. -/
theorem State.command_met {s : State} (hr : Ready s) {need : Need} (body : State → State)
    (hm : need.met s.attached = true) : s.command need body = .next (body { s with rsp := none }) := by
  unfold State.command
  rw [hr.1.1, hr.2, hm]
  rfl

/-- A ready block answers `BadState` where the requirement is not met. -/
theorem State.command_unmet {s : State} (hr : Ready s) {need : Need} (body : State → State)
    (hm : need.met s.attached = false) : s.command need body = .next (s.erred .badState 0#8) := by
  obtain ⟨⟨hw, -⟩, hs⟩ := hr
  have he : s.raise .badState 0#8 = s.erred .badState 0#8 := by
    simp only [State.raise, State.respond, State.erred, Response.error, ← hs]
  unfold State.command
  rw [hw, hs, hm, he]
  rfl

/-! ## One answered `Program` -/

/-- The state one answered `Program(a, v)` leaves (spec/40_cache_write_protocol.md R114). -/
def State.programmed (s : State) (a : Addr) (v : Value) (ok : Bool) (rest : List TxEvent) : State :=
  (s.withCell a v).sent a ok rest

section
variable (s : State) (a : Addr) (v : Value) (ok : Bool) (rest : List TxEvent)
@[simp] theorem State.programmed_cfg : (s.programmed a v ok rest).cfg = s.cfg := rfl
@[simp] theorem State.programmed_bias : (s.programmed a v ok rest).bias = s.bias := rfl
@[simp] theorem State.programmed_pending : (s.programmed a v ok rest).pending = s.pending := rfl
@[simp] theorem State.programmed_sysclk : (s.programmed a v ok rest).sysclk = s.sysclk := rfl
@[simp] theorem State.programmed_attached : (s.programmed a v ok rest).attached = s.attached := rfl
@[simp] theorem State.programmed_seq : (s.programmed a v ok rest).seq = s.seq := rfl
@[simp] theorem State.programmed_rsp : (s.programmed a v ok rest).rsp = s.rsp := rfl
@[simp] theorem State.programmed_host : (s.programmed a v ok rest).host = s.host := rfl
@[simp] theorem State.programmed_answers : (s.programmed a v ok rest).answers = rest := rfl
end

/-- A `Program` of a cell below `N` is what `Programmed` says. -/
theorem programmed_spec {s : State} {a : Addr} (hs : Shaped s) (ha : a.toNat < s.cfg.n) (v : Value) (ok : Bool)
    (rest : List TxEvent) : Programmed s (s.programmed a v ok rest) a v ok := by
  rw [shaped_iff] at hs
  have hx : a.toNat < s.x.length := by omega
  refine ⟨⟨rfl, rfl⟩, ?_, ?_, ?_⟩
  · simp [Logged, State.programmed, State.xAt_withCell v hx]
  · intro b _; simp [State.programmed, State.xAt_withCell v hx]
  · intro b
    show (s.programmed a v ok rest).confAt b = if b = a then ok else s.confAt b
    rw [State.programmed, State.confAt_sent _ _ (by simp [confCleared]; omega), State.confAt_withCell]
    split <;> rfl

theorem programmed_shaped {s : State} (h : Shaped s) (a : Addr) (v : Value) (ok : Bool) (rest : List TxEvent) :
    Shaped (s.programmed a v ok rest) := by
  rw [shaped_iff] at *
  simpa [State.programmed, confCleared, confSent] using h

/-- The cells after a `Program`, the one of `RST` too. -/
theorem programmed_xAt {s : State} (h : Shaped s) {a : Addr} (ha : a.toNat < s.cfg.n) (v : Value) (ok : Bool)
    (rest : List TxEvent) (b : Addr) : (s.programmed a v ok rest).xAt b = if b = a then v else s.xAt b := by
  rw [shaped_iff] at h
  simp [State.programmed, State.xAt_withCell v (show a.toNat < s.x.length by omega)]

/-- A send whose frame is answered. -/
theorem microOp_send_answer {s : State} {a : Addr} {f : OnFail} {q : Sequencer} {err : Bool} {acc : BitVec 2}
    {rest : List TxEvent} (h : s.answers = .answer err acc :: rest) :
    microOp (.send a f) s q =
      if txOk err acc then .go (s.sent a true rest) q.counted
      else match f with
        | .abort => .raised (s.sent a false rest) .ioError q.fcnt
        | .endStage => .skip (s.sent a false rest) q.noted.counted
        | .record => .go (s.sent a false rest) q.noted.counted := by
  cases f <;> simp only [microOp, sendOp, h]

/-- A `Program` of a command whose frame is answered: the cell, the flag and the log first, then the rest of the
command, unless the failure ends it. -/
theorem runOps_program {s : State} {a : Addr} {src : Source} {v : Value} {f : OnFail} {q : Sequencer} {err : Bool}
    {acc : BitVec 2} {rest : List TxEvent} (ops : List MicroOp) (hv : src.eval s a = some v)
    (ha : a.toNat < s.cfg.n) (h : s.answers = .answer err acc :: rest) :
    runOps false (program a src f ++ ops) s q =
      if txOk err acc then runOps false ops (s.programmed a v true rest) q.counted
      else match f with
        | .abort => (s.programmed a v false rest).raise .ioError q.fcnt
        | .endStage => runOps true ops (s.programmed a v false rest) q.noted.counted
        | .record => runOps false ops (s.programmed a v false rest) q.noted.counted := by
  have hw : microOp (.write a src) s q = .go (s.withCell a v) q := by
    simp [microOp, writeOp, hv, State.memWrite, ha]
  have hs := microOp_send_answer (s := s.withCell a v) (a := a) (f := f) (q := q) h
  simp only [program, List.cons_append, List.nil_append, runOps, Bool.false_and, Bool.false_eq_true, if_false, hw,
    hs]
  cases txOk err acc
  · cases f <;> rfl
  · rfl

/-- A `Program` whose frame is not answered yet: the cell is written and the command waits. -/
theorem runOps_program_waits {s : State} {a : Addr} {src : Source} {v : Value} {f : OnFail} {q : Sequencer}
    (ops : List MicroOp) (hv : src.eval s a = some v) (ha : a.toNat < s.cfg.n) (h : s.answers = []) :
    runOps false (program a src f ++ ops) s q =
      { s.withCell a v with seq := some { q with todo := .send a f :: ops } } := by
  have hw : microOp (.write a src) s q = .go (s.withCell a v) q := by
    simp [microOp, writeOp, hv, State.memWrite, ha]
  have hs : microOp (.send a f) (s.withCell a v) q = .wait := by simp only [microOp, sendOp, State.withCell_answers, h]
  simp only [program, List.cons_append, List.nil_append, runOps, Bool.false_and, Bool.false_eq_true, if_false, hw,
    hs]

/-- A run ends with a response, or waits and leaves the response port alone. -/
theorem runOps_end (ops : List MicroOp) : ∀ (skipping : Bool) (s : State) (q : Sequencer),
    ((runOps skipping ops s q).seq = none ∧ ∃ r, (runOps skipping ops s q).rsp = some r) ∨
      ((∃ q', (runOps skipping ops s q).seq = some q') ∧ (runOps skipping ops s q).rsp = s.rsp) := by
  induction ops with
  | nil => intro skipping s q; exact .inl ⟨rfl, _, rfl⟩
  | cons op ops ih =>
    intro skipping s q
    unfold runOps
    split
    · exact ih _ _ _
    · have hr : ∀ t, (microOp op s q).Leaves t → t.rsp = s.rsp := by
        intro t hl
        rcases microOp_leaves hl with rfl | rfl | ⟨_, rfl⟩ | rfl | ⟨_, _, _, rfl⟩ | ⟨_, _, _, rfl⟩ | ⟨_, rfl⟩ |
          ⟨_, rfl⟩ <;> rfl
      split <;> rename_i he <;> rw [he] at hr
      · rw [← hr _ rfl]; exact ih _ _ _
      · rw [← hr _ rfl]; exact ih _ _ _
      · exact .inr ⟨⟨_, rfl⟩, rfl⟩
      · exact .inl ⟨rfl, _, rfl⟩

/-! ## An answered replay -/

/-- The state after the frames of a replay were answered, each cell with the answer to its frame. -/
def State.replayed (s : State) : List (Addr × TxEvent) → State
  | [] => s
  | (a, e) :: l => (s.sent a e.isOk (s.answers.drop 1)).replayed l

/-- The counters after them. -/
def Sequencer.replayed (q : Sequencer) : List (Addr × TxEvent) → Sequencer
  | [] => q
  | (_, e) :: l => (if e.isOk then q.counted else q.noted.counted).replayed l

/-- A replay whose frames are all answered goes on to the steps after it, whatever the answers are. -/
theorem runOps_replay (ops : List MicroOp) : ∀ (l : List (Addr × TxEvent)) {s : State} {q : Sequencer}
    {rest : List TxEvent}, s.answers = l.map Prod.snd ++ rest → (∀ p ∈ l, p.2.isAnswer = true) →
    runOps false (l.map (fun p => .send p.1 .record) ++ ops) s q = runOps false ops (s.replayed l) (q.replayed l)
  | [], _, _, _, _, _ => rfl
  | (a, .delay) :: l, _, _, _, _, hl => nomatch hl _ List.mem_cons_self
  | (a, .answer err acc) :: l, s, q, rest, h, hl => by
    have h' : s.answers = .answer err acc :: (l.map Prod.snd ++ rest) := h
    have hs := microOp_send_answer (a := a) (f := .record) (q := q) h'
    have ih := fun ok q => runOps_replay ops l (s := s.sent a ok (l.map Prod.snd ++ rest)) (q := q) rfl
      fun p hp => hl p (List.mem_cons_of_mem _ hp)
    have hd : s.answers.drop 1 = l.map Prod.snd ++ rest := by rw [h']; rfl
    rcases Bool.eq_false_or_eq_true (txOk err acc) with hok | hok <;>
      simp only [hok, Bool.false_eq_true, if_false, if_true] at hs <;>
      simp only [List.map_cons, List.cons_append, runOps, Bool.false_and, Bool.false_eq_true, if_false, if_true, hs,
        State.replayed, Sequencer.replayed, TxEvent.isOk, hd, hok] <;>
      exact ih _ _

section
variable {s : State}
@[simp] theorem State.replayed_cfg (l : List (Addr × TxEvent)) : (s.replayed l).cfg = s.cfg := by
  induction l generalizing s <;> simp_all [State.replayed]
@[simp] theorem State.replayed_x (l : List (Addr × TxEvent)) : (s.replayed l).x = s.x := by
  induction l generalizing s <;> simp_all [State.replayed]
@[simp] theorem State.replayed_bias (l : List (Addr × TxEvent)) : (s.replayed l).bias = s.bias := by
  induction l generalizing s <;> simp_all [State.replayed]
@[simp] theorem State.replayed_pending (l : List (Addr × TxEvent)) : (s.replayed l).pending = s.pending := by
  induction l generalizing s <;> simp_all [State.replayed]
@[simp] theorem State.replayed_sysclk (l : List (Addr × TxEvent)) : (s.replayed l).sysclk = s.sysclk := by
  induction l generalizing s <;> simp_all [State.replayed]
@[simp] theorem State.replayed_attached (l : List (Addr × TxEvent)) : (s.replayed l).attached = s.attached := by
  induction l generalizing s <;> simp_all [State.replayed]
@[simp] theorem State.replayed_host (l : List (Addr × TxEvent)) : (s.replayed l).host = s.host := by
  induction l generalizing s <;> simp_all [State.replayed]
@[simp] theorem State.replayed_rsp (l : List (Addr × TxEvent)) : (s.replayed l).rsp = s.rsp := by
  induction l generalizing s <;> simp_all [State.replayed]
@[simp] theorem State.replayed_conf_length (l : List (Addr × TxEvent)) :
    (s.replayed l).conf.length = s.conf.length := by
  induction l generalizing s <;> simp_all [State.replayed, confSent]
end

theorem State.replayed_answers (l : List (Addr × TxEvent)) {s : State} {rest : List TxEvent}
    (h : s.answers = l.map Prod.snd ++ rest) : (s.replayed l).answers = rest := by
  induction l generalizing s with
  | nil => exact h
  | cons p l ih => exact ih (by rw [State.sent_answers, h]; rfl)

theorem State.replayed_txlog (l : List (Addr × TxEvent)) (s : State) :
    (s.replayed l).txlog = s.txlog ++ l.map fun p => ⟨frameOf p.1 (s.xAt p.1), p.2.isOk⟩ := by
  induction l generalizing s with
  | nil => simp [State.replayed]
  | cons p l ih => simp [State.replayed, ih]

/-- The flags after a replay in which no cell occurs twice. -/
theorem State.replayed_confAt (l : List (Addr × TxEvent)) {s : State} (hn : (l.map Prod.fst).Nodup)
    (hl : ∀ p ∈ l, p.1.toNat < s.conf.length) (b : Addr) :
    (s.replayed l).confAt b = (l.lookup b).elim (s.confAt b) TxEvent.isOk := by
  induction l generalizing s with
  | nil => rfl
  | cons p l ih =>
    obtain ⟨a, e⟩ := p
    simp only [List.map_cons, List.nodup_cons] at hn
    rw [State.replayed, ih hn.2 fun p hp => by
        simpa [confSent] using hl p (List.mem_cons_of_mem _ hp),
      State.confAt_sent _ _ (hl _ List.mem_cons_self), List.lookup_cons]
    by_cases hb : b = a
    · subst hb
      have : l.lookup b = none := by
        rw [List.lookup_eq_none_iff]
        intro p hp
        have hne : b ≠ p.1 := fun h => hn.1 (h ▸ List.mem_map_of_mem hp)
        simpa using hne
      simp [this]
    · simp [hb, show (b == a) = false by simpa using hb]

end Sys2Proof.Machine
end

