-- ==== Sys2Proof/Laws/Exec.lean ====
section
/-! SUPPORT. Everything a command can lead to, said once: it is refused the lifecycle, it answers at once, or it
runs its steps. -/

namespace Sys2Proof.Machine

/-- The steps a command runs and the response it ends with when none fails; none for a command that answers at
once. -/
def planOf (s : State) : Instr → Option (List MicroOp × Response)
  | .attach clk => some (.seed :: .setSysclk clk :: resetOp s.cfg ++
      program s.cfg.involL (.setBits s.cfg.updateMask) .abort ++
      program s.cfg.involR (.setBits s.cfg.updateMask) .abort ++
      biasStep s.cfg .standby .abort ++ [.setAttached true], Response.okay)
  | .detach => some ([.seed, .setAttached false], Response.okay)
  | .setreg a v => some (program a (.const v) .abort, Response.okay)
  | .reset => some (resetOp s.cfg, Response.okay)
  | .setfmt b => (composeByte s.cfg b).map fun v =>
      (program s.cfg.iface (.const v) .abort, Response.value v)
  | .setrate strict clk rate => (resolveRow s.cfg clk rate strict).map fun m =>
      (.setSysclk clk :: program s.cfg.srate (.const (srValue m.2)) .abort, Response.row m)
  | .setmute m => some (program s.cfg.dig
      (if m then .setBits s.cfg.muteMask else .clearBits s.cfg.muteMask) .abort, Response.okay)
  | .setbias l => some (biasStep s.cfg l .abort, Response.okay)
  | .suspend => some (.savePending :: program s.cfg.act (.const 0#16) .abort ++ biasStep s.cfg .off .abort,
      Response.okay)
  | .resume => some (replay s.cfg ++ .stage :: biasStep s.cfg .standby .endStage ++
      .stage :: biasStep s.cfg s.pending .endStage, Response.okay)
  | .getreg _ | .resolve _ _ _ | .compose _ | .getstat _ | .getconf _ => none

/-- The response a command without steps gives once its lifecycle requirement is met. -/
def answerOf (s : State) : Instr → Response
  | .getreg a => match s.memRead a with
    | some v => Response.value v
    | none => Response.error .outOfRange (a.setWidth 8)
  | .getconf a =>
    if a.toNat < s.cfg.n then ⟨.ok, 0#8, (BitVec.ofBool (s.confAt a)).setWidth 32⟩
    else Response.error .outOfRange (a.setWidth 8)
  | .resolve strict clk rate | .setrate strict clk rate => match resolveRow s.cfg clk rate strict with
    | some m => Response.row m
    | none => Response.error .unsupportedRate 0#8
  | .compose b | .setfmt b => match composeByte s.cfg b with
    | some v => Response.value v
    | none => Response.error .invalidFormat 0#8
  | .getstat sel => ⟨.ok, 0#8, if sel then s.sysclk else statusData s.attached s.pending s.bias⟩
  | .attach _ | .detach | .setreg _ _ | .reset | .setmute _ | .setbias _ | .suspend | .resume => Response.okay

/-- A command is its lifecycle check, then its steps or its answer. -/
theorem exec_eq (i : Instr) (s : State) :
    exec i s = s.command (needOf i) fun t =>
      match planOf s i with
      | some (ops, reply) => t.launch ops reply
      | none => t.respond (answerOf s i) := by
  cases i with
  | getreg a =>
    simp only [exec, execGetreg, needOf]
    apply State.command_congr
    have hm : State.memRead { s with rsp := none } a = s.memRead a := rfl
    simp only [planOf, answerOf, hm]
    cases s.memRead a <;> rfl
  | getconf a =>
    simp only [exec, execGetconf, needOf]
    apply State.command_congr
    simp only [planOf, answerOf, State.confAt]
    split <;> rfl
  | setfmt b =>
    simp only [exec, execSetfmt, needOf, planOf, answerOf, State.command]
    cases composeByte s.cfg b <;> rfl
  | setrate strict clk rate =>
    simp only [exec, execSetrate, needOf, planOf, answerOf, State.command]
    cases resolveRow s.cfg clk rate strict <;> rfl
  | resolve strict clk rate =>
    simp only [exec, execResolve, needOf, planOf, answerOf, State.command]
    cases resolveRow s.cfg clk rate strict <;> rfl
  | compose b =>
    simp only [exec, execCompose, needOf, planOf, answerOf, State.command]
    cases composeByte s.cfg b <;> rfl
  | getstat sel => rfl
  | attach clk => rfl
  | detach => rfl
  | setreg a v => rfl
  | reset => rfl
  | setmute m => rfl
  | setbias l => rfl
  | suspend => rfl
  | resume => rfl

/-- What it means that a command answers a next state. -/
theorem exec_eq_next {i : Instr} {s t : State} (h : exec i s = .next t) :
    s.cfg.wf = true ∧ s.seq = none ∧
      ((needOf i).met s.attached = false ∧ t = s.raise .badState 0#8 ∨
      (needOf i).met s.attached = true ∧
        (planOf s i = none ∧ t = s.respond (answerOf s i) ∨
        ∃ ops reply, planOf s i = some (ops, reply) ∧ t = State.launch ops reply { s with rsp := none })) := by
  rw [exec_eq] at h
  obtain ⟨hw, hs, ⟨hm, rfl⟩ | ⟨hm, rfl⟩⟩ := State.command_eq_next h
  · refine ⟨hw, hs, .inr ⟨hm, ?_⟩⟩
    cases hp : planOf s i with
    | none => exact .inl ⟨rfl, rfl⟩
    | some p => exact .inr ⟨p.1, p.2, rfl, rfl⟩
  · exact ⟨hw, hs, .inl ⟨hm, rfl⟩⟩

/-- What every step of a command keeps, and what does not look at the sequencer or the response port, holds after
a command. -/
theorem exec_keeps {P : State → Prop}
    (hop : ∀ op s q t, (microOp op s q).Leaves t → P s → P t)
    (hend : ∀ s o r, P s → P { s with seq := o, rsp := r }) {i : Instr} {s t : State} (h : exec i s = .next t)
    (hs : P s) : P t := by
  obtain ⟨_, hq, ⟨_, rfl⟩ | ⟨_, ⟨_, rfl⟩ | ⟨ops, r, _, rfl⟩⟩⟩ := exec_eq_next h
  · exact hend _ _ _ hs
  · exact hend _ _ _ hs
  · apply runOps_keeps hop hend
    have := hend s none none hs
    rw [← hq] at this
    exact this

theorem step_of_wf {s : State} (h : s.cfg.wf = true) : step s = s.portStep := by simp [step, h]

/-- What every step of a command and the hardware reset keep, and what does not look at the ports, holds after a
step of the block. -/
theorem step_keeps {P : State → Prop}
    (hop : ∀ op s q t, (microOp op s q).Leaves t → P s → P t)
    (hend : ∀ s o r, P s → P { s with seq := o, rsp := r })
    (hio : ∀ s h as, P s → P { s with host := h, answers := as })
    (hrst : ∀ s, P s → P s.hardwareReset) {s t : State} (h : step s = .next t) (hs : P s) : P t := by
  unfold step at h
  split at h
  rotate_left
  · cases h
  unfold State.portStep at h
  split at h
  · cases h; exact hio _ _ s.answers (hrst _ hs)
  · cases h
    exact runOps_keeps hop hend _ _ _ _
      (hend { s with answers := dropDelay s.answers } none s.rsp (hio s s.host _ hs))
  · unfold State.runWord at h
    split at h
    · exact exec_keeps hop hend h (hio _ _ s.answers hs)
    · cases h; exact hend _ _ _ (hio _ _ s.answers hs)
  · cases h; exact hs

/-- A command of one `Program` whose frame is answered. -/
theorem ends_of_program {i : Instr} {s : State} (hr : Ready s) (hm : (needOf i).met s.attached = true) {a : Addr}
    {src : Source} {reply : Response} (hp : planOf s i = some (program a src .abort, reply)) {v : Value}
    (hv : src.eval s a = some v) (ha : a.toNat < s.cfg.n) {err : Bool} {acc : BitVec 2} {rest : List TxEvent}
    (h : s.answers = .answer err acc :: rest) :
    ∃ t, Ends i s t (if txOk err acc then reply else ⟨.ioError, 0#8, 0#32⟩) ∧
      Programmed s t a v (txOk err acc) ∧ ControlKept s t ∧ t.answers = rest := by
  simp only [Ends, exec_eq, State.command_met hr _ hm, hp]
  have hrun := runOps_program (s := { s with rsp := none }) (f := .abort) (q := ⟨[], 0#8, none, reply⟩) (src := src)
    (v := v) [] (by cases src <;> exact hv) ha h
  simp only [List.append_nil] at hrun
  refine ⟨_, ⟨rfl, ?_, ?_⟩, ?_⟩
  · simp only [State.launch, hrun]; split <;> rfl
  · simp only [State.launch, hrun]; split <;> rfl
  · have hpr := programmed_spec (s := { s with rsp := none }) hr.1 ha v (txOk err acc) rest
    simp only [State.launch, hrun]
    cases htx : txOk err acc <;> rw [htx] at hpr
    all_goals exact ⟨⟨⟨hpr.ports.cfg, hpr.ports.host⟩, hpr.log, hpr.cells, hpr.flags⟩, ⟨rfl, rfl, rfl, rfl⟩, rfl⟩

end Sys2Proof.Machine
end

