-- ==== Sys2Proof/Laws/PerInstr.lean ====
section
/-! SUPPORT. A law of the encoder for every command: the word carries the opcode of spec/30_encoding.md R83. -/

namespace Sys2Proof.Laws.Opcode

/-- The encoded word of a command has the command's opcode in its opcode field. -/
def Statement (i : Instr) : Prop := CmdWord.op (encode i) = i.opcode

theorem attach (clk : Hz) : Statement (.attach clk) := CmdWord.op_pack _ _ _ _
theorem detach : Statement (.detach) := CmdWord.op_pack _ _ _ _
theorem getreg (a : Addr) : Statement (.getreg a) := CmdWord.op_pack _ _ _ _
theorem setreg (a : Addr) (v : Value) : Statement (.setreg a v) := CmdWord.op_pack _ _ _ _
theorem reset : Statement (.reset) := CmdWord.op_pack _ _ _ _
theorem setfmt (c : BitVec 8) : Statement (.setfmt c) := CmdWord.op_pack _ _ _ _
theorem setrate (strict : Bool) (clk rate : Hz) : Statement (.setrate strict clk rate) := CmdWord.op_pack _ _ _ _
theorem setmute (m : Bool) : Statement (.setmute m) := CmdWord.op_pack _ _ _ _
theorem setbias (l : BiasLevel) : Statement (.setbias l) := CmdWord.op_pack _ _ _ _
theorem suspend : Statement (.suspend) := CmdWord.op_pack _ _ _ _
theorem resume : Statement (.resume) := CmdWord.op_pack _ _ _ _
theorem resolve (strict : Bool) (clk rate : Hz) : Statement (.resolve strict clk rate) := CmdWord.op_pack _ _ _ _
theorem compose (c : BitVec 8) : Statement (.compose c) := CmdWord.op_pack _ _ _ _
theorem getstat (sel : Bool) : Statement (.getstat sel) := CmdWord.op_pack _ _ _ _
theorem getconf (a : Addr) : Statement (.getconf a) := CmdWord.op_pack _ _ _ _

/-- Every command's word carries its opcode. -/
theorem all (i : Instr) : Statement i := by
  cases i <;> exact CmdWord.op_pack _ _ _ _

end Sys2Proof.Laws.Opcode
end

