-- ==== Sys2Proof/Tests/Slice0.lean ====
section
/-! SUPPORT. Tests against values the spec gives (its vectors, or words written out from its encodings), and one
witness for every statement that has hypotheses. -/

namespace Sys2Proof.Tests

open Sys2Proof Sys2Proof.Machine

/-! ## Words written out bit by bit from spec/30_encoding.md R82 and R83: op, fl, A, B -/

theorem test_word_attach : decode (0x1#4 ++ 0x0#4 ++ 0x00BB8000#32 ++ 0x00000000#32) = .ok (.attach 12288000#32) := by
  decide
theorem test_word_detach : decode (0x2#4 ++ 0x0#4 ++ 0#32 ++ 0#32) = .ok .detach := by decide
theorem test_word_getreg : decode (0x3#4 ++ 0x0#4 ++ 0#32 ++ (0#25 ++ 0x55#7)) = .ok (.getreg 0x55#7) := by
  decide
theorem test_word_setreg :
    decode (0x4#4 ++ 0x0#4 ++ (0#25 ++ 0x06#7) ++ (0#16 ++ 0x019f#16)) = .ok (.setreg 6#7 0x019f#16) := by
  decide
theorem test_word_reset : decode (0x5#4 ++ 0x0#4 ++ 0#32 ++ 0#32) = .ok .reset := by decide
theorem test_word_setfmt : decode (0x6#4 ++ 0x0#4 ++ 0#32 ++ (0#24 ++ 0x83#8)) = .ok (.setfmt 0x83#8) := by
  decide
theorem test_word_setrate : decode (0x7#4 ++ 0x1#4 ++ 0x00AC4400#32 ++ 0x0000AC44#32)
    = .ok (.setrate true 11289600#32 44100#32) := by decide
theorem test_word_setmute : decode (0x8#4 ++ 0x0#4 ++ 0#32 ++ (0#31 ++ 1#1)) = .ok (.setmute true) := by
  decide
theorem test_word_setbias : decode (0x9#4 ++ 0x0#4 ++ 0#32 ++ (0#30 ++ 2#2)) = .ok (.setbias .prepare) := by
  decide
theorem test_word_suspend : decode (0xA#4 ++ 0x0#4 ++ 0#32 ++ 0#32) = .ok .suspend := by decide
theorem test_word_resume : decode (0xB#4 ++ 0x0#4 ++ 0#32 ++ 0#32) = .ok .resume := by decide
theorem test_word_resolve : decode (0xC#4 ++ 0x0#4 ++ 999#32 ++ 998#32) = .ok (.resolve false 999#32 998#32) := by
  decide
theorem test_word_compose : decode (0xD#4 ++ 0x0#4 ++ 0#32 ++ (0#24 ++ 0xff#8)) = .ok (.compose 0xff#8) := by
  decide
theorem test_word_getstat : decode (0xE#4 ++ 0x0#4 ++ 0#32 ++ (0#31 ++ 1#1)) = .ok (.getstat true) := by
  decide
theorem test_word_getconf : decode (0xF#4 ++ 0x0#4 ++ 0#32 ++ (0#25 ++ 0x7f#7)) = .ok (.getconf 0x7f#7) := by
  decide

/-- The illegal words of spec/95_test_vectors.md section 2.2. -/
theorem test_illegal_words :
    ([0x00000000000000000#72, 0x0FFFFFFFFFFFFFFFFF#72].all fun w => decode w = .error .reservedOpcode) ∧
    ([0x100000000500000001#72, 0x200000000100000000#72, 0x300000000100000004#72, 0x300000000000000080#72,
      0x400000008000000000#72, 0x400000000400010000#72, 0x720000000100000001#72, 0x810000000000000001#72,
      0x900000000000000004#72, 0xC30000000100000001#72, 0xD00000000100000000#72, 0xD00000000000000100#72,
      0xE00000000000000002#72].all fun w => decode w = .error .nonzeroReserved) := by decide

/-- The lowest `nbits` bits of the number are the word. -/
theorem test_decodeTableWord :
    decodeTableWord 72 0x900000000000000003 = some (.setbias .on) ∧ decodeTableWord 72 0 = none := by decide

/-! ## Layouts (spec/95_test_vectors.md section 2.1 and the ends of its sections 2.5 and 2.8) -/

theorem test_frames : (frameOf 0x04#7 0x0179#16).word = 0x0979#16 ∧ (frameOf 0x06#7 0xffff#16).word = 0x0dff#16 ∧
    (frameOf 0x06#7 0xfe00#16).word = 0x0c00#16 ∧ (frameOf 0x7f#7 0x01ff#16).word = 0xffff#16 := by decide

theorem test_response_word : (Response.error .outOfRange 0x10#8).word = 0x101000000000#48 ∧
    (Response.row (14, ⟨11289600#32, 44100#32, 256#16, 0x8#4, false, false⟩)).word = 0x000E01000020#48 := by
  decide

/-! ## Well-formed configurations: the spec's two, and one that fails each clause of spec/00_scope.md R5 -/

/-- `CFG_ALT` (spec/95_test_vectors.md section 2.9). -/
def alt : Cfg where
  n := 10
  rst := 0#7
  pwr := 4#7
  act := 5#7
  iface := 6#7
  srate := 7#7
  dig := 3#7
  involL := 1#7
  involR := 2#7
  defaults := [0x0000#16, 0x0011#16, 0x0022#16, 0x0033#16, 0x01c4#16, 0x0055#16, 0x0066#16, 0x0077#16, 0x0088#16,
    0x0099#16]
  coeff := [⟨11289600#32, 44100#32, 256#16, 0x8#4, false, false⟩,
    ⟨12288000#32, 48000#32, 256#16, 0x0#4, false, false⟩, ⟨12288000#32, 48000#32, 999#16, 0xf#4, true, true⟩]
  standbyMask := 0x0100#16
  muteMask := 0x0001#16
  updateMask := 0x0080#16
  fmtLJ := 0x0100#16
  fmtDspA := 0x0101#16
  fmtDspB := 0x0200#16
  polBit := 0x0400#16
  polFrame := 0x0800#16
  polBoth := 0x1000#16
  w20 := 0x0010#16

theorem test_wf : Cfg.ref.wf = true ∧ alt.wf = true := by decide

theorem test_ill_count : Cfg.wf { alt with n := 11 } = false ∧ Cfg.wfCount { alt with n := 11 } = false ∧
    Cfg.wf { alt with n := 129, defaults := List.replicate 129 0#16 } = false := by decide
theorem test_ill_range : Cfg.wf { alt with dig := 10#7 } = false ∧ Cfg.wfRange { alt with dig := 10#7 } = false := by
  decide
theorem test_ill_apart : Cfg.wf { alt with dig := 0#7 } = false ∧ Cfg.wf { alt with act := 4#7 } = false ∧
    Cfg.wf { alt with involR := 1#7 } = false ∧ Cfg.wf { alt with dig := 4#7 } = true := by decide
theorem test_ill_coeff : Cfg.wf { alt with coeff := alt.coeff.reverse } = false ∧
    Cfg.wf { alt with coeff := [] } = false ∧ Cfg.wfCoeff { alt with coeff := alt.coeff.reverse } = false := by
  decide
theorem test_ill_patterns : Cfg.wf { alt with fmtLJ := 0x0002#16 } = false ∧
    Cfg.wf { alt with polBoth := 0#16 } = false ∧ Cfg.wf { alt with w20 := 0x0008#16 } = false ∧
    Cfg.wf { alt with w20 := 0x0011#16 } = false := by decide
theorem test_ill_masks : Cfg.wf { alt with standbyMask := 0#16 } = false ∧
    Cfg.wf { alt with muteMask := 0x0003#16 } = false ∧ Cfg.wf { alt with updateMask := 0x0101#16 } = false := by
  decide

/-! ## Small states and one step on them -/

/-- A block right after hardware reset. -/
def fresh (answers : List TxEvent) : State := { State.reset with answers := answers }

/-- A block right after `ATTACH 12288000` (spec/95_test_vectors.md L1). -/
def up (answers : List TxEvent) : State :=
  { State.reset with
    x := [0x0197#16, 0x0197#16, 0x0079#16, 0x0079#16, 0x000a#16, 0x0008#16, 0x00df#16, 0x000a#16] ++
      List.replicate 8 0#16
    conf := [true, true, false, false, false, false, true, false] ++ List.replicate 7 false ++ [true]
    bias := .standby
    sysclk := 12288000#32
    attached := true
    answers := answers }

/-- A frame that is not accepted. -/
def fails : TxEvent := .answer false 1#2

/-- The state an outcome goes on in. -/
def after : Host.Outcome State Fault Refusal → State
  | .next t => t
  | _ => State.reset

/-- The outcome goes on. -/
def goesOn : Host.Outcome State Fault Refusal → Bool
  | .next _ => true
  | _ => false

theorem eq_next {o : Host.Outcome State Fault Refusal} (h : goesOn o = true) : o = .next (after o) := by
  cases o with
  | next t => rfl
  | fault e => cases h
  | refused e => cases h

/-- The command ends with the response. -/
def endsWith (i : Instr) (s : State) (r : Response) : Bool :=
  goesOn (exec i s) && (after (exec i s)).seq == none && (after (exec i s)).rsp == some r

theorem ends_of {i : Instr} {s : State} {r : Response} (h : endsWith i s r = true) :
    Ends i s (after (exec i s)) r := by
  simp only [endsWith, Bool.and_eq_true, beq_iff_eq] at h
  exact ⟨eq_next h.1.1, h.1.2, h.2⟩

/-- One step that runs the word `w` on `s`, with the answers that make `frames` succeed or fail: the frames sent,
the response, and something about the state after it. -/
def vector (s : State) (w : CmdWord) (frames : List (BitVec 16 × Bool)) (rw : RspWord) (post : State → Bool) : Bool :=
  let o := step (State.withFetchWord { s with answers := frames.map fun f => if f.2 then .answer false 2#2 else fails }
    72 w.toNat)
  let t := after o
  goesOn o && t.rspWord == some rw && t.seq == none && t.host == [] && t.answers == [] &&
    (t.txlog.drop s.txlog.length).map (fun e => (e.frame.word, e.ok)) == frames && post t

/-- L1. -/
theorem test_attach : vector (fresh []) 0x1000BB800000000000#72
    [(0x1e00#16, true), (0x0197#16, true), (0x0397#16, true), (0x0cdf#16, true)] 0#48
    (fun t => { t with txlog := [], rsp := none } == up []) = true := by decide
/-- L2. -/
theorem test_attach_fails : vector (fresh []) 0x1000BB800000000000#72
    [(0x1e00#16, true), (0x0197#16, true), (0x0397#16, false)] 0x200200000000#48
    (fun t => t.attached == false && t.sysclk == 12288000#32 && t.bias == .off) = true := by decide
/-- L3. -/
theorem test_detach : vector (up []) 0x200000000000000000#72 [] 0#48
    (fun t => { t with rsp := none } == State.reset) = true := by decide
/-- Section 2.4, rows 2 and 6; `RST` reads 0 (program P4, row 11). -/
theorem test_getreg : vector (up []) 0x300000000000000000#72 [] 0x000000000197#48 (fun _ => true) = true ∧
    vector { up [] with x := (up []).x.set 15 0x01ff#16 } 0x30000000000000000F#72 [] 0#48 (fun _ => true) = true ∧
    vector (up []) 0x300000000000000010#72 [] 0x101000000000#48 (fun _ => true) = true := by decide
/-- Section 2.3: detached comes before out of range. -/
theorem test_getreg_detached : vector (fresh []) 0x300000000000000010#72 [] 0x500000000000#48 (fun _ => true) = true := by
  decide
/-- Section 2.4, rows 9 and 10. -/
theorem test_setreg : vector (up []) 0x400000000400000179#72 [(0x0979#16, true)] 0#48
    (fun t => t.xAt 4#7 == 0x0179#16 && t.confAt 4#7) = true := by decide
theorem test_setreg_fails : vector (up []) 0x400000000400000001#72 [(0x0801#16, false)] 0x200000000000#48
    (fun t => t.xAt 4#7 == 0x0001#16 && !t.confAt 4#7) = true := by decide
/-- Section 2.4, row 19. -/
theorem test_reset : vector (up []) 0x500000000000000000#72 [(0x1e00#16, true)] 0#48
    (fun t => t.x == (up []).x && t.bias == .standby) = true := by decide
/-- Section 2.6: the whole cell is replaced; `InvalidFormat` leaves it. -/
theorem test_setfmt : vector { up [] with x := (up []).x.set 7 0xff00#16 } 0x600000000000000000#72
    [(0x0e02#16, true)] 0x000000000002#48 (fun t => t.xAt 7#7 == 0x0002#16) = true := by decide
theorem test_setfmt_invalid : vector (up []) 0x6000000000000000CA#72 [] 0x300000000000#48
    (fun t => t.x == (up []).x) = true := by decide
/-- Section 2.5: the fallback row, and the strict refusal. -/
theorem test_setrate : vector { up [] with x := (up []).x.set 8 0xffc0#16 } 0x7000AC44000000AC44#72
    [(0x1020#16, true)] 0x000E01000020#48 (fun t => t.xAt 8#7 == 0x0020#16 && t.sysclk == 11289600#32) = true := by
  decide
theorem test_setrate_strict : vector (up []) 0x71000003E7000003E7#72 [] 0x400000000000#48
    (fun t => t.sysclk == 12288000#32) = true := by decide
/-- Section 2.4, rows 17 and 18. -/
theorem test_mute : vector { up [] with x := (up []).x.set 5 0xfe17#16 } 0x800000000000000001#72
    [(0x0a1f#16, true)] 0#48 (fun t => t.xAt 5#7 == 0xfe1f#16) = true := by decide
theorem test_unmute : vector { up [] with x := (up []).x.set 5 0xfe1f#16 } 0x800000000000000000#72
    [(0x0a17#16, true)] 0#48 (fun t => t.xAt 5#7 == 0xfe17#16) = true := by decide
/-- Section 2.7, rows 4 and 6, and the failure inside a transition. -/
theorem test_setbias_on : vector (up []) 0x900000000000000003#72 [(0x0c9f#16, true)] 0#48
    (fun t => t.xAt 6#7 == 0x009f#16 && t.bias == .on) = true := by decide
theorem test_setbias_off_fails : vector { up [] with bias := .on } 0x900000000000000000#72
    [(0x1200#16, true), (0x0dff#16, false)] 0x200100000000#48
    (fun t => t.xAt 6#7 == 0xffff#16 && t.bias == .on && t.confAt 9#7 && !t.confAt 6#7) = true := by decide
/-- L4 and L8. -/
theorem test_suspend : vector { up [] with bias := .on } 0xA00000000000000000#72
    [(0x1200#16, true), (0x1200#16, true), (0x0dff#16, true)] 0#48
    (fun t => t.pending == .on && t.bias == .off) = true := by decide
theorem test_suspend_fails : vector { up [] with bias := .on } 0xA00000000000000000#72
    [(0x1200#16, true), (0x1200#16, false)] 0x200100000000#48
    (fun t => t.pending == .on && t.bias == .on && t.xAt 6#7 == 0x00df#16) = true := by decide
/-- L9: the replay goes on after a failure, the failed Standby step is left, On is done. -/
theorem test_resume_goes_on :
    vector { up [] with bias := .off, pending := .on, x := (up []).x.set 6 0xffff#16 } 0xB00000000000000000#72
    ([(0x0197#16, true), (0x0397#16, true), (0x0479#16, true), (0x0679#16, false), (0x080a#16, true),
      (0x0a08#16, true), (0x0dff#16, true), (0x0e0a#16, true), (0x1000#16, true), (0x1200#16, true)] ++
     [(0x1400#16, true), (0x1600#16, true), (0x1800#16, true), (0x1a00#16, true), (0x1c00#16, true),
      (0x0dff#16, false), (0x0dbf#16, true)]) 0x200300000000#48
    (fun t => t.bias == .on && t.xAt 6#7 == 0xffbf#16 && !t.confAt 3#7 && t.confAt 6#7) = true := by decide
/-- L7: without a SUSPEND before, RESUME ends at Off. -/
theorem test_resume_pending_off : endsWith .resume (up (accepted 18)) Response.okay = true ∧
    (after (exec .resume (up (accepted 18)))).bias = .off := by decide
/-- Section 2.5, rows 4 and 11; no match is the first row (section 2.9). -/
theorem test_resolve : vector (fresh []) 0xC100B71B000000AC44#72 [] 0x001001100023#48 (fun _ => true) = true ∧
    vector (fresh []) 0xC10000BB8000BB8000#72 [] 0x400000000000#48 (fun _ => true) = true := by decide
theorem test_resolve_alt :
    vector (State.resetWith alt) 0xC0000003E7000003E7#72 [] 0x000001000020#48 (fun _ => true) = true ∧
    vector (State.resetWith alt) 0xC000BB80000000BB80#72 [] 0x000101000000#48 (fun _ => true) = true := by
  decide
/-- Section 2.6; section 2.9 for a polarity that is not the OR of two. -/
theorem test_compose : vector (fresh []) 0xD00000000000000077#72 [] 0x0000000000D7#48 (fun _ => true) = true ∧
    vector (fresh []) 0xD000000000000000C0#72 [] 0x300000000000#48 (fun _ => true) = true := by decide
theorem test_compose_alt :
    vector (State.resetWith alt) 0xD000000000000000B3#72 [] 0x000000001148#48 (fun _ => true) = true := by
  decide
/-- L1 and L4. -/
theorem test_getstat : vector (up []) 0xE00000000000000001#72 [] 0x000000BB8000#48 (fun _ => true) = true ∧
    vector { up [] with bias := .off, pending := .on } 0xE00000000000000000#72 [] 0x00000000001C#48 (fun _ => true)
      = true := by decide
/-- Section 2.4, rows 4, 5 and 6. -/
theorem test_getconf : vector (up []) 0xF00000000000000002#72 [] 0#48 (fun _ => true) = true ∧
    vector (up []) 0xF0000000000000000F#72 [] 0x000000000001#48 (fun _ => true) = true ∧
    vector (up []) 0xF00000000000000010#72 [] 0x101000000000#48 (fun _ => true) = true := by decide
/-- An illegal word is answered (section 2.2). -/
theorem test_illegal : vector (up []) 0x720000000100000001#72 [] 0x600000000000#48
    (fun t => { t with rsp := none } == up []) = true := by decide

/-! ## The ports -/

/-- A frame without an answer waits with the cell written (spec/40_cache_write_protocol.md R114), and `rst` ends it
(spec/70_reset_and_hazards.md R260). -/
theorem test_waits :
    let t := after (exec (.setreg 4#7 0x0179#16) (up []))
    t.txFrame = some 0x0979#16 ∧ t.cmdReady = false ∧ t.rspWord = none ∧ t.xAt 4#7 = 0x0179#16 ∧
      after (step { t with host := [.hardwareReset] }) = State.reset := by decide

/-- The frame and the counter of the second frame of ATTACH (spec/10_state.md R32). -/
theorem test_fcnt :
    let t := after (exec (.attach 12288000#32) (fresh (accepted 1)))
    t.txFrame = some 0x0197#16 ∧ t.fcnt = 1#8 ∧ t.firstFail = none := by decide

/-! ## Assembler (spec/30_encoding.md R93, R94; spec/95_test_vectors.md P1 to P3) -/

theorem test_asm : Asm.line Cfg.ref "SETFMT M, DSPA, II, 20" = some (.setfmt 0x77#8) ∧
    Asm.line Cfg.ref "SETREG 0x04, 0x0179 ; input gain" = some (.setreg 4#7 0x0179#16) ∧
    Asm.line Cfg.ref "SETRATE.S 12288000, 48000" = some (.setrate true 12288000#32 48000#32) ∧
    Asm.line Cfg.ref "SETBIAS Prepare" = some (.setbias .prepare) ∧
    Asm.line Cfg.ref "GETREG 128" = none := by decide
theorem test_asm_names : Asm.line Cfg.ref "GETREG PWR" = some (.getreg 6#7) ∧
    Asm.line Cfg.ref "MUTE" = some (.setmute true) ∧ Asm.line Cfg.ref "UNMUTE" = some (.setmute false) := by
  decide

/-! ## Witnesses: states and operands that meet the hypotheses of each statement -/

theorem ready_up (as : List TxEvent) : Ready (up as) := ⟨⟨test_wf.1, rfl⟩, rfl⟩
theorem ready_fresh (as : List TxEvent) : Ready (fresh as) := ⟨⟨test_wf.1, rfl⟩, rfl⟩

theorem witness_EncodeOfDecode : decode 0x1000BB800000000000#72 = .ok (.attach 12288000#32) := by decide
theorem witness_DecodeFollowsOpcodeTable :
    decode 0x40000000060000009F#72 = .ok (.setreg 6#7 0x009f#16) ∧
    (Instr.setreg 0#7 0#16).row.fits 0x40000000060000009F#72 = true ∧
    (Instr.setreg 1#7 1#16).row.fits 0x40000000060000009F#72 = true := by decide
/-- The worked example of spec/30_encoding.md R85. -/
theorem witness_CfgByteMeansConfig :
    interfaceConfig 0x83#8 = some ⟨true, .leftJustified, false, false, .w24⟩ := by decide
theorem witness_WriteThenRead : Shaped (up []) ∧
    (14#7).toNat < (up []).cfg.n ∧ 14#7 ≠ (up []).cfg.rst ∧
    15#7 = (up []).cfg.rst ∧ (up []).cfg.n ≤ (16#7).toNat ∧ (up []).cfg.n ≤ (127#7).toNat :=
  ⟨(ready_up []).1, by decide⟩
theorem witness_ResolveFirstMatch_row : alt.wf = true ∧
    alt.coeff[1]? = some ⟨12288000#32, 48000#32, 256#16, 0x0#4, false, false⟩ ∧
    (∀ j < 1, ∀ q, alt.coeff[j]? = some q → ¬ (q.clk = 12288000#32 ∧ q.rate = 48000#32)) := by
  refine ⟨test_wf.2, rfl, ?_⟩
  intro j hj q hq
  obtain rfl : j = 0 := by omega
  cases hq
  decide
theorem witness_ResolveFirstMatch_none : alt.wf = true ∧
    ∀ r ∈ alt.coeff, ¬ (r.clk = 999#32 ∧ r.rate = 999#32) := by decide
theorem witness_AttestedRowsResolve : alt.wf = true := test_wf.2
theorem witness_ComposeOrsTheGroups :
    5 ≤ ((0x0a#8).extractLsb' 1 3).toNat ∧ (0xc0#8).extractLsb' 6 2 = 3#2 ∧
    formatOfCode ((0x88#8).extractLsb' 1 3) = some .dspB ∧ widthOfCode ((0x88#8).extractLsb' 6 2) = some .w24 := by
  decide
/-- The format DSPA, both clocks inverted, 20 bits (spec/95_test_vectors.md section 2.6), and the last codes. -/
theorem witness_ComposeOrsTheGroups_codes :
    ([0x0002#16, alt.fmtLJ, 0x0000#16, alt.fmtDspA, alt.fmtDspB][(0x77#8).toNat / 2 % 8]? = some 0x0101#16 ∧
      [0x0000#16, alt.polBit, alt.polFrame, alt.polBoth][(0x77#8).toNat / 16 % 4]? = some 0x1000#16 ∧
      [0x0000#16, alt.w20, 0x0008#16][(0x77#8).toNat / 64]? = some 0x0010#16) ∧
    ([0x0002#16, alt.fmtLJ, 0x0000#16, alt.fmtDspA, alt.fmtDspB][(0xa8#8).toNat / 2 % 8]? = some 0x0200#16 ∧
      [0x0000#16, alt.polBit, alt.polFrame, alt.polBoth][(0xa8#8).toNat / 16 % 4]? = some 0x0800#16 ∧
      [0x0000#16, alt.w20, 0x0008#16][(0xa8#8).toNat / 64]? = some 0x0008#16) := by decide

theorem witness_HardwareResetSeeds :
    let s := { after (exec .suspend (up [])) with host := [.hardwareReset] }
    Shaped s ∧ s.seq ≠ none ∧ s.host = .hardwareReset :: [] := by decide
theorem witness_StepRunsDecodedCommand :
    let s := { up [] with host := [.command 0x900000000000000003#72] }
    s.cfg.wf = true ∧ s.seq = none ∧ s.host = .command 0x900000000000000003#72 :: [] ∧
      decode 0x900000000000000003#72 = .ok (.setbias .on) := by decide
theorem witness_IllegalWordIsAnswered :
    let s := { up [] with host := [.command 0#72] }
    s.cfg.wf = true ∧ s.seq = none ∧ s.host = .command 0#72 :: [] ∧ decode 0#72 = .error .reservedOpcode := by
  decide
theorem witness_IllFormedCfgHasNoMeaning : (State.resetWith { alt with n := 11 }).cfg.wf = false := by decide

/-- A block whose command waits for its frame to be answered. -/
def busy : State := { after (exec (.setreg 4#7 1#16) (up [])) with host := [.command 0#72] }

theorem witness_BusyBlockTakesNoCommand :
    busy.seq = some ⟨[.send 4#7 .abort], 0#8, none, Response.okay⟩ ∧ busy.host = .command 0#72 :: [] ∧
      step busy = .next (after (step busy)) := ⟨by decide, by decide, eq_next (by decide)⟩
theorem witness_UnansweredFrameWaitsForEver :
    busy.cfg.wf = true ∧ busy.seq = some ⟨[.send 4#7 .abort], 0#8, none, Response.okay⟩ ∧ busy.answers = [] ∧
      (∀ rest, busy.host ≠ .hardwareReset :: rest) :=
  ⟨by decide, by decide, by decide, (fun _ h => nomatch h)⟩
theorem witness_LateAnswersChangeNothing :
    let s := up []
    Ready s ∧ (∀ rest, s.host ≠ .hardwareReset :: rest) ∧
      exec .suspend { s with answers := accepted 1 } = .next (after (exec .suspend { s with answers := accepted 1 })) ∧
      (after (exec .suspend { s with answers := accepted 1 })).seq =
        some ⟨.send 9#7 .abort :: program 6#7 (.const 0xffff#16) .abort ++ [.recordBias .off], 1#8, none,
          Response.okay⟩ ∧
      (after (exec .suspend { s with answers := accepted 1 })).answers = [] :=
  ⟨ready_up [], (fun _ h => nomatch h), eq_next (by decide), by decide, by decide⟩
theorem witness_AnsweredCommandsEnd : Ready (up (accepted 130)) ∧ 130 ≤ (up (accepted 130)).answers.length ∧
    (∀ e ∈ (up (accepted 130)).answers.take 130, e.isAnswer = true) := by
  refine ⟨ready_up _, Nat.le_of_eq List.length_replicate.symm, fun e h => ?_⟩
  rw [List.eq_of_mem_replicate (List.mem_of_mem_take h)]
  rfl
theorem witness_OneResponsePerCommand : Ready (up (accepted 1)) ∧
    exec .reset (up (accepted 1)) = .next (after (exec .reset (up (accepted 1)))) :=
  ⟨ready_up _, eq_next (by decide)⟩
theorem witness_WrongLifecycleIsBadState :
    (Ready (fresh []) ∧ needOf .suspend = .attached ∧ (fresh []).attached = false) ∧
    (Ready (up []) ∧ needOf (.attach 0#32) = .detached ∧ (up []).attached = true) :=
  ⟨⟨ready_fresh [], rfl, rfl⟩, ready_up [], rfl, rfl⟩
theorem witness_EarlyErrorsChangeNothing : Ready (up []) ∧
    Ends (.setreg 16#7 1#16) (up []) (after (exec (.setreg 16#7 1#16) (up []))) ⟨.outOfRange, 16#8, 0#32⟩ ∧
    Status.outOfRange ≠ .ok ∧ Status.outOfRange ≠ .ioError :=
  ⟨ready_up [], ends_of (by decide), by decide, by decide⟩
theorem witness_IoErrorNamesFirstFailedFrame_failed :
    let s := up (accepted 1 ++ [fails])
    Ready s ∧ Ends .suspend s (after (exec .suspend s)) ⟨.ioError, 1#8, 0#32⟩ :=
  ⟨ready_up _, ends_of (by decide)⟩
theorem witness_IoErrorNamesFirstFailedFrame_ok :
    let s := up (accepted 3)
    Ready s ∧ Ends .suspend s (after (exec .suspend s)) ⟨.ok, 0#8, 0#32⟩ :=
  ⟨ready_up _, ends_of (by decide)⟩
theorem witness_ReportsChangeNothing : Ready (up []) ∧ reportsOnly (.getreg 0#7) = true := ⟨ready_up [], rfl⟩
theorem witness_WritersOfControlState :
    let s := up (accepted 3)
    let t := after (exec .suspend s)
    Ready s ∧ exec .suspend s = .next t ∧ t.bias ≠ s.bias ∧ t.pending ≠ s.pending :=
  ⟨ready_up _, eq_next (by decide), by decide, by decide⟩
theorem witness_WritersOfControlState_attach :
    let s := fresh (accepted 4)
    let t := after (exec (.attach 1#32) s)
    Ready s ∧ exec (.attach 1#32) s = .next t ∧ t.attached ≠ s.attached ∧ t.sysclk ≠ s.sysclk :=
  ⟨ready_fresh _, eq_next (by decide), by decide, by decide⟩
theorem witness_WritersOfCells :
    let s := up (accepted 1)
    Ready s ∧ exec (.setreg 4#7 1#16) s = .next (after (exec (.setreg 4#7 1#16) s)) ∧
      cellsWritten s.cfg (.setreg 4#7 1#16) = some [4#7] ∧ 5#7 ∉ [4#7] ∧ 5#7 ≠ s.cfg.rst :=
  ⟨ready_up _, eq_next (by decide), rfl, by decide, by decide⟩

theorem witness_CacheHoldsWhatWasAttempted :
    let s := up (accepted 2 ++ [fails])
    let es := [okEntry 9#7 0#16, okEntry 9#7 0#16, ⟨frameOf 6#7 0xffff#16, false⟩]
    Ready s ∧ Ends .suspend s (after (exec .suspend s)) ⟨.ioError, 2#8, 0#32⟩ ∧
      Logged s (after (exec .suspend s)) es ∧ 6#7 ≠ s.cfg.rst ∧
      lastFor 6#7 es = some ⟨frameOf 6#7 0xffff#16, false⟩ ∧ 4#7 ≠ s.cfg.rst ∧ lastFor 4#7 es = none :=
  ⟨ready_up _, ends_of (by decide), by unfold Logged; decide, by decide, by decide, by decide, by decide⟩

theorem list_set_get {k j : Nat} (l : List Value) (v : Value) (h : k ≠ j) : (l.set j v)[k]? = l[k]? := by
  simp [Ne.symm h]

theorem witness_ResetCellIsUnobservable :
    let s := up (accepted 1)
    let s' := { s with x := s.x.set 15 0x1234#16 }
    Ready s ∧ SameButRst s s' ∧ exec .reset s = .next (after (exec .reset s)) :=
  ⟨ready_up _, ⟨⟨rfl, rfl⟩, ⟨rfl, rfl, rfl, rfl⟩, rfl, rfl, rfl, rfl, rfl, fun _ h => list_set_get _ _ h, rfl⟩,
    eq_next (by decide)⟩

theorem witness_StepKeepsShape :
    let s := { up (accepted 1) with host := [.command 0x40000000060000009F#72] }
    Shaped s ∧ step s = .next (after (step s)) := ⟨(ready_up []).1, eq_next (by decide)⟩
/-- A state with a confirmed cell that has the invariant: one frame was accepted, and it carried that cell. -/
theorem witness_StepKeepsConfirmed :
    let s := { fresh [] with
      conf := (List.replicate 16 false).set 6 true, txlog := [okEntry 6#7 0x009f#16], attached := true,
      host := [.command 0x40000000060000009F#72] }
    ConfirmedMeansSent s ∧ s.confAt 6#7 = true ∧ step s = .next (after (step s)) := by
  refine ⟨fun a ha => ?_, by decide, eq_next (by decide)⟩
  obtain rfl : a = 6#7 := by revert a; decide
  exact ⟨okEntry 6#7 0x009f#16, by decide, rfl, fun _ => by decide⟩
theorem witness_RunsFromResetAreSafe : Cfg.ref.wf = true ∧
    Reaches { State.resetWith Cfg.ref with host := [.hardwareReset], answers := [] } (State.resetWith Cfg.ref) := by
  refine ⟨test_wf.1, .step .start ?_⟩
  exact (eq_next (by decide)).trans (congrArg _ (by decide))
theorem witness_BlockNeverStops : Shaped busy := by decide

theorem witness_GetregReportsCell : Ready (up []) ∧ Ready (fresh []) ∧ (fresh []).attached = false ∧
    (up []).attached = true ∧ 15#7 = (up []).cfg.rst ∧ 14#7 ≠ (up []).cfg.rst ∧ (14#7).toNat < (up []).cfg.n ∧
    (up []).cfg.n ≤ (16#7).toNat ∧ (up []).cfg.n ≤ (127#7).toNat := ⟨ready_up [], ready_fresh [], by decide⟩
theorem witness_SetregProgramsCell : Ready (up [fails]) ∧ Ready (fresh []) ∧ (fresh []).attached = false ∧
    (up [fails]).attached = true ∧ (15#7).toNat < (up [fails]).cfg.n ∧ (up [fails]).cfg.n ≤ (16#7).toNat ∧
    (up [fails]).answers = .answer false 1#2 :: [] := ⟨ready_up _, ready_fresh [], by decide⟩
theorem witness_CacheIsWrittenBeforeTheSend : Ready (up []) ∧ (up []).attached = true ∧
    (15#7).toNat < (up []).cfg.n ∧ (14#7).toNat < (up []).cfg.n ∧ 14#7 ≠ (up []).cfg.rst ∧ (up []).answers = [] :=
  ⟨ready_up [], by decide⟩
/-- RESET, SETMUTE, SETBIAS: an attached block with one answer, a success or a failure; and a detached one. -/
theorem witness_ResetSendsOneFrame : Ready (up [.answer true 2#2]) ∧ Ready (fresh []) ∧ (fresh []).attached = false ∧
    (up [.answer true 2#2]).attached = true ∧ (up [.answer true 2#2]).answers = .answer true 2#2 :: [] :=
  ⟨ready_up _, ready_fresh [], by decide⟩
theorem witness_GetconfReportsFlag : Ready (up []) ∧ Ready (fresh []) ∧ (fresh []).attached = false ∧
    (up []).attached = true ∧ (15#7).toNat < (up []).cfg.n ∧ (up []).cfg.n ≤ (16#7).toNat :=
  ⟨ready_up [], ready_fresh [], by decide⟩
theorem witness_SetmuteChangesOneBit : Ready (up (accepted 1)) ∧ Ready (fresh []) ∧ (fresh []).attached = false ∧
    (up (accepted 1)).attached = true ∧ (up (accepted 1)).answers = .answer false 2#2 :: [] :=
  ⟨ready_up _, ready_fresh [], by decide⟩
theorem witness_ResolveReportsRow : Ready (fresh []) ∧
    resolveRow (fresh []).cfg 11289600#32 44100#32 true
      = some (14, ⟨11289600#32, 44100#32, 256#16, 0x8#4, false, false⟩) ∧
    resolveRow (fresh []).cfg 999#32 999#32 true = none := ⟨ready_fresh [], by decide⟩
theorem witness_SetrateProgramsRow : Ready (up (accepted 1)) ∧ Ready (fresh []) ∧ (fresh []).attached = false ∧
    (up (accepted 1)).attached = true ∧ resolveRow (up (accepted 1)).cfg 999#32 999#32 true = none ∧
    resolveRow (up (accepted 1)).cfg 11289600#32 44100#32 false
      = some (14, ⟨11289600#32, 44100#32, 256#16, 0x8#4, false, false⟩) ∧
    (up (accepted 1)).answers = .answer false 2#2 :: [] := ⟨ready_up _, ready_fresh [], by decide⟩
theorem witness_ComposeReportsValue : Ready (fresh []) ∧ composeByte (fresh []).cfg 0x83#8 = some 0x0049#16 ∧
    composeByte (fresh []).cfg 0x0a#8 = none := ⟨ready_fresh [], by decide⟩
theorem witness_SetfmtProgramsValue : Ready (up (accepted 1)) ∧ Ready (fresh []) ∧ (fresh []).attached = false ∧
    (up (accepted 1)).attached = true ∧ composeByte (up (accepted 1)).cfg 0x0a#8 = none ∧
    composeByte (up (accepted 1)).cfg 0x83#8 = some 0x0049#16 ∧
    (up (accepted 1)).answers = .answer false 2#2 :: [] := ⟨ready_up _, ready_fresh [], by decide⟩

theorem witness_SetbiasOnClearsStandby : Ready (up (accepted 1)) ∧ (up (accepted 1)).attached = true ∧
    (up (accepted 1)).answers = .answer false 2#2 :: [] := ⟨ready_up _, by decide⟩
theorem witness_SetbiasPrepareOnlyRecords : Ready (up []) ∧ (up []).attached = true := ⟨ready_up [], rfl⟩
theorem witness_SetbiasStandbySetsStandby : Ready (up [fails]) ∧ (up [fails]).attached = true ∧
    (up [fails]).answers = .answer false 1#2 :: [] := ⟨ready_up _, by decide⟩
theorem witness_SetbiasOffPowersDown :
    (Ready (up [fails]) ∧ (up [fails]).attached = true ∧ (up [fails]).answers = .answer false 1#2 :: [] ∧
      txOk false 1#2 = false) ∧
    (Ready (up (accepted 1 ++ [fails])) ∧ (up (accepted 1 ++ [fails])).attached = true ∧
      (up (accepted 1 ++ [fails])).answers = accepted 1 ++ .answer false 1#2 :: []) :=
  ⟨⟨ready_up _, by decide⟩, ready_up _, by decide⟩
theorem witness_SetbiasTwiceRepeats :
    let s := up (accepted 2)
    let t := after (exec (.setbias .off) s)
    let u := after (exec (.setbias .off) { t with answers := accepted 2 })
    Ready s ∧ s.attached = true ∧ Ends (.setbias .off) s t ⟨.ok, 0#8, 0#32⟩ ∧
      Logged s t [okEntry 9#7 0#16, okEntry 6#7 0xffff#16] ∧
      Ends (.setbias .off) { t with answers := accepted 2 } u ⟨.ok, 0#8, 0#32⟩ :=
  ⟨ready_up _, rfl, ends_of (by decide), by unfold Logged; decide, ends_of (by decide)⟩

theorem witness_SuspendPowersDown :
    (Ready (fresh []) ∧ (fresh []).attached = false) ∧
    (Ready (up (accepted 1 ++ [fails])) ∧ (up (accepted 1 ++ [fails])).attached = true ∧ 1 < 2 ∧
      (up (accepted 1 ++ [fails])).answers = accepted 1 ++ .answer false 1#2 :: [] ∧ txOk false 1#2 = false) ∧
    (Ready (up (accepted 2 ++ [fails])) ∧ (up (accepted 2 ++ [fails])).attached = true ∧
      (up (accepted 2 ++ [fails])).answers = accepted 2 ++ .answer false 1#2 :: []) :=
  ⟨⟨ready_fresh [], rfl⟩, ⟨ready_up _, by decide⟩, ready_up _, by decide⟩
theorem witness_ReplaySendsEveryCell :
    let s := up (accepted 14 ++ fails :: accepted 3)
    Ready s ∧ s.attached = true ∧ s.answers = (accepted 14 ++ [fails]) ++ accepted 3 ∧
      (accepted 14 ++ [fails]).length = s.cfg.n - 1 ∧ (∀ e ∈ accepted 14 ++ [fails], e.isAnswer = true) ∧
      exec .resume s = .next (after (exec .resume s)) :=
  ⟨ready_up _, rfl, rfl, rfl, by decide, eq_next (by decide)⟩
theorem witness_ResumeRestoresPending :
    (Ready (fresh []) ∧ (fresh []).attached = false) ∧
    (let s := up (accepted 18)
     Ready s ∧ s.attached = true ∧ s.pending = .off ∧
      s.answers = accepted (s.cfg.n - 1 + 1 +
        (match s.pending with | .on => 1 | .standby => 1 | .prepare => 0 | .off => 2)) ++ []) :=
  ⟨⟨ready_fresh [], rfl⟩, ready_up _, rfl, rfl, rfl⟩
/-- An attached block with the pending level `l`, whose transport fails the first frame of the replay and answers
the rest of it, then `more`. -/
def resuming (l : BiasLevel) (more : List TxEvent) : State :=
  { up ((fails :: accepted 14) ++ more) with pending := l }

theorem ready_resuming (l : BiasLevel) (more : List TxEvent) :
    Ready (resuming l more) ∧ (resuming l more).attached = true ∧
      (fails :: accepted 14).length = (resuming l more).cfg.n - 1 ∧
      (∀ e ∈ fails :: accepted 14, e.isAnswer = true) := ⟨ready_up [], rfl, rfl, by decide⟩

theorem witness_ResumeGoesOnAfterFailure :
    ((resuming .on [fails, .answer false 2#2]).pending = .on ∧ (resuming .on [fails, .answer false 2#2]).answers =
      (fails :: accepted 14) ++ .answer false 1#2 :: .answer false 2#2 :: []) ∧
    ((resuming .standby [.answer false 2#2, fails]).pending = .standby ∧
      (resuming .standby [.answer false 2#2, fails]).answers =
        (fails :: accepted 14) ++ .answer false 2#2 :: .answer false 1#2 :: []) ∧
    ((resuming .prepare [fails]).pending = .prepare ∧ (resuming .prepare [fails]).answers =
      (fails :: accepted 14) ++ .answer false 1#2 :: []) := ⟨⟨rfl, rfl⟩, ⟨rfl, rfl⟩, rfl, rfl⟩
theorem witness_ResumeToOffGoesOnAfterFailure :
    (resuming .off [fails, fails]).pending = .off ∧
    ((resuming .off [fails, fails]).answers = (fails :: accepted 14) ++ .answer false 1#2 :: .answer false 1#2 :: [] ∧
      txOk false 1#2 = false) ∧
    ((resuming .off [fails, .answer false 2#2, fails]).answers =
        (fails :: accepted 14) ++ .answer false 1#2 :: .answer false 2#2 :: .answer false 1#2 :: [] ∧
      txOk false 2#2 = true) := ⟨rfl, ⟨rfl, rfl⟩, rfl, rfl⟩
theorem witness_SuspendThenResumeRestoresBias :
    let s := { up (accepted 3) with bias := .on }
    let t := after (exec .suspend s)
    let m := { t with answers := accepted 17 }
    Ready s ∧ Ends .suspend s t ⟨.ok, 0#8, 0#32⟩ ∧ Ready m ∧ m.cfg = s.cfg ∧ m.pending = t.pending ∧
      Ends .resume m (after (exec .resume m)) ⟨.ok, 0#8, 0#32⟩ :=
  ⟨ready_up [], ends_of (by decide), by decide, by decide, rfl, ends_of (by decide)⟩
theorem witness_PowerBitsLostBySuspend :
    let s := { up (accepted 3) with bias := .on }
    let t := after (exec .suspend s)
    Ready s ∧ s.bias = .on ∧ Ends .suspend s t ⟨.ok, 0#8, 0#32⟩ ∧
      Ends .resume { t with answers := accepted 17 } (after (exec .resume { t with answers := accepted 17 }))
        ⟨.ok, 0#8, 0#32⟩ :=
  ⟨ready_up [], rfl, ends_of (by decide), ends_of (by decide)⟩

theorem witness_AttachBringsUp :
    (Ready (up []) ∧ (up []).attached = true) ∧
    (Ready (fresh (accepted 4)) ∧ (fresh (accepted 4)).attached = false ∧
      (fresh (accepted 4)).answers = accepted 4 ++ []) ∧
    (Ready (fresh (accepted 3 ++ [fails])) ∧ (fresh (accepted 3 ++ [fails])).attached = false ∧
      (fresh (accepted 3 ++ [fails])).answers = accepted 3 ++ .answer false 1#2 :: [] ∧ txOk false 1#2 = false ∧
      (let c := (fresh (accepted 3 ++ [fails])).cfg
       let d := fun a : Addr => c.defaults.getD a.toNat 0#16
       [(c.rst, 0#16), (c.involL, d c.involL ||| c.updateMask), (c.involR, d c.involR ||| c.updateMask),
         (c.pwr, d c.pwr ||| c.standbyMask)][3]? = some (6#7, 0x00df#16))) :=
  ⟨⟨ready_up [], rfl⟩, ⟨ready_fresh _, rfl, rfl⟩, ready_fresh _, rfl, rfl, rfl, by decide⟩
theorem witness_DetachSeeds : (Ready (fresh []) ∧ (fresh []).attached = false) ∧
    (Ready (up []) ∧ (up []).attached = true) := ⟨⟨ready_fresh [], rfl⟩, ready_up [], rfl⟩
theorem witness_GetstatReportsControl : Ready (fresh []) ∧ Ready (up []) := ⟨ready_fresh [], ready_up []⟩

end Sys2Proof.Tests
end

section
/-! The words of spec/30_encoding.md as numbers, field by field. -/

namespace Sys2Proof

/-- A concatenation as a number: the high part is shifted past the low one. -/
theorem toNat_append_eq_mul_add {n m : Nat} (x : BitVec n) (y : BitVec m) :
    (x ++ y).toNat = x.toNat * 2 ^ m + y.toNat := by
  rw [BitVec.toNat_append, ← Nat.shiftLeft_add_eq_or_of_lt y.isLt, Nat.shiftLeft_eq]

namespace Machine

/-- Settles O7: the six bits of a row are `sr`, `bosr` and `usb`, each shifted past the bits below it, and the zero
extension to 16 bits keeps their number. -/
theorem srValueLayout : Obligations.SrValueLayout := by
  intro r
  have extended : (srValue r).toNat = (r.sr ++ BitVec.ofBool r.bosr ++ BitVec.ofBool r.usb).toNat :=
    BitVec.toNat_setWidth_of_le (by decide)
  rw [extended, toNat_append_eq_mul_add, toNat_append_eq_mul_add, BitVec.toNat_ofBool, BitVec.toNat_ofBool]
  omega

end Machine
end Sys2Proof
end

section
/-! The coefficient resolver (spec/41_clock_coefficient.md): what its search over the rows finds, and what the
resolver answers for each outcome of the search. -/

namespace Sys2Proof

/-- The coefficient clause of R5 (d), which gives R142 its rows. -/
theorem Cfg.wf_coeff {c : Cfg} (h : c.wf = true) :
    1 ≤ c.coeff.length ∧ ∀ r ∈ attestedRows, Cfg.firstRow c.coeff r.clk r.rate = some r := by
  simp only [Cfg.wf, Cfg.wfCoeff, Bool.and_eq_true, decide_eq_true_eq, List.all_eq_true, beq_iff_eq] at h
  obtain ⟨⟨⟨-, ⟨nonempty, -⟩, attested⟩, -⟩, -⟩ := h
  exact ⟨nonempty, attested⟩

namespace Machine

/-- The resolver's search finds the row that the well-formedness check finds; its index starts at any `i`. -/
theorem map_snd_firstMatch (clk rate : Hz) (i : Nat) (rows : List CoeffRow) :
    (firstMatch clk rate i rows).map Prod.snd = Cfg.firstRow rows clk rate := by
  induction rows generalizing i with
  | nil => rfl
  | cons q rows ih =>
    by_cases key : q.clk = clk ∧ q.rate = rate
    · simp [firstMatch, Cfg.firstRow, key]
    · have skipped : Cfg.firstRow (q :: rows) clk rate = Cfg.firstRow rows clk rate :=
        List.find?_cons_of_neg (by simpa using key)
      rw [firstMatch, if_neg key, ih, skipped]

theorem firstMatch_eq_none_iff {clk rate : Hz} {i : Nat} {rows : List CoeffRow} :
    firstMatch clk rate i rows = none ↔ ∀ r ∈ rows, ¬ (r.clk = clk ∧ r.rate = rate) := by
  rw [← Option.map_eq_none_iff (f := Prod.snd), map_snd_firstMatch, Cfg.firstRow, List.find?_eq_none]
  simp only [Bool.and_eq_true, beq_iff_eq]

/-- A row with the key and none before it is found, at its own index past the one the search starts from. -/
theorem firstMatch_eq_some_of_first {clk rate : Hz} {rows : List CoeffRow} {k : Nat} {r : CoeffRow} (i : Nat)
    (at_k : rows[k]? = some r) (key : r.clk = clk ∧ r.rate = rate)
    (before : ∀ j < k, ∀ q, rows[j]? = some q → ¬ (q.clk = clk ∧ q.rate = rate)) :
    firstMatch clk rate i rows = some (i + k, r) := by
  induction rows generalizing i k with
  | nil => cases at_k
  | cons q rows ih =>
    cases k with
    | zero =>
      cases at_k
      exact if_pos key
    | succ k =>
      have skip : ¬ (q.clk = clk ∧ q.rate = rate) := before 0 k.succ_pos q rfl
      have found := ih (i + 1) at_k fun j hj => before (j + 1) (Nat.succ_lt_succ hj)
      rw [firstMatch, if_neg skip, found, Nat.add_right_comm, Nat.add_assoc]

/-- A row that the search finds is resolved, strict or not. -/
theorem resolveRow_of_firstMatch {c : Cfg} {clk rate : Hz} {m : Nat × CoeffRow} (strict : Bool)
    (found : firstMatch clk rate 0 c.coeff = some m) : resolveRow c clk rate strict = some m := by
  simp only [resolveRow, found]

/-- Without a row found, strictness decides between failure and row 0. -/
theorem resolveRow_of_firstMatch_none {c : Cfg} {clk rate : Hz} (strict : Bool)
    (missing : firstMatch clk rate 0 c.coeff = none) :
    resolveRow c clk rate strict = if strict then none else c.coeff.head?.map fun r => (0, r) := by
  simp only [resolveRow, missing]

/-- What the well-formedness check finds first for a key is what the resolver answers for it. -/
theorem resolveRow_of_firstRow {c : Cfg} {clk rate : Hz} {r : CoeffRow} (strict : Bool)
    (first : Cfg.firstRow c.coeff clk rate = some r) : ∃ k, resolveRow c clk rate strict = some (k, r) := by
  rw [← map_snd_firstMatch clk rate 0] at first
  obtain ⟨⟨k, _⟩, found, rfl⟩ := Option.map_eq_some_iff.mp first
  exact ⟨k, resolveRow_of_firstMatch strict found⟩

/-- Settles O11: by what the search finds; the fallback row 0 exists because a well-formed table has a row. -/
theorem resolveFirstMatch : Obligations.ResolveFirstMatch := by
  intro c clk rate strict wf
  refine ⟨fun k r at_k hclk hrate before => ?_, fun noRow => ?_⟩
  · have found := firstMatch_eq_some_of_first 0 at_k ⟨hclk, hrate⟩ before
    rw [Nat.zero_add] at found
    exact resolveRow_of_firstMatch strict found
  · have answer := resolveRow_of_firstMatch_none strict (firstMatch_eq_none_iff.mpr noRow)
    obtain ⟨nonempty, -⟩ := Cfg.wf_coeff wf
    obtain ⟨row0, rows, table⟩ := List.exists_cons_of_length_pos nonempty
    refine ⟨fun isStrict => ?_, fun lenient => ⟨row0, ?_, ?_⟩⟩
    · rw [answer, if_pos isStrict]
    · rw [table, List.getElem?_cons_zero]
    · rw [answer, lenient, table]
      rfl

/-- Settles O12: R5 (d) makes each attested row the first one with its key. -/
theorem attestedRowsResolve : Obligations.AttestedRowsResolve := by
  intro c strict wf
  obtain ⟨-, attested⟩ := Cfg.wf_coeff wf
  exact ⟨resolveRow_of_firstRow strict (attested _ (.head _)),
    resolveRow_of_firstRow strict (attested _ (.tail _ (.head _)))⟩

end Machine
end Sys2Proof
end

section
/-! The bias sequencer (spec/43_bias_sequencer.md): SETBIAS as a run of its bias step, and the step to Prepare,
which is the record of the level and nothing else. -/

namespace Sys2Proof.Machine

/-- SETBIAS on an attached block that is ready runs its bias step (R187). -/
theorem exec_setbias_of_attached (l : BiasLevel) {s : State} (ready : Ready s) (attached : s.attached = true) :
    exec (.setbias l) s =
      .next (State.launch (biasStep s.cfg l .abort) Response.okay { s with rsp := none }) := by
  have met : (needOf (.setbias l)).met s.attached = true := attached
  rw [exec_eq, State.command_met ready _ met]
  rfl

/-- A command whose only step records a level ends at once: no frame is presented, so no answer is awaited. -/
theorem State.launch_recordBias (l : BiasLevel) (reply : Response) (s : State) :
    State.launch [.recordBias l] reply s = { s with bias := l, seq := none, rsp := some reply } := rfl

/-- Settles O47: the bias step to Prepare has one step, the record of the level; the block was idle before it and is
idle after it. -/
theorem setbiasPrepareOnlyRecords : Obligations.SetbiasPrepareOnlyRecords := by
  intro s ready attached
  have idle : s.seq = none := ready.2
  have onlyStep : biasStep s.cfg .prepare .abort = [.recordBias .prepare] := rfl
  rw [exec_setbias_of_attached .prepare ready attached, onlyStep, State.launch_recordBias, ← idle]
  rfl

end Sys2Proof.Machine
end

section
/-! The command word (spec/30_encoding.md R82, R83, R90): the decoder on a packed word, a word as its four fields, and
the rows of the opcode table as conditions on those fields. -/

namespace Sys2Proof

@[simp] theorem decode_pack (o f : BitVec 4) (a b : BitVec 32) :
    decode (CmdWord.pack o f a b) = decodeFields o f a b := by
  simp only [decode, CmdWord.op_pack, CmdWord.fl_pack, CmdWord.opA_pack, CmdWord.opB_pack]

/-- A word with these fields is the packed one. -/
theorem CmdWord.pack_eq_of_fields {w : CmdWord} {o f : BitVec 4} {a b : BitVec 32} (ho : w.op = o) (hf : w.fl = f)
    (ha : w.opA = a) (hb : w.opB = b) : CmdWord.pack o f a b = w := by
  subst ho hf ha hb
  exact CmdWord.pack_fields w

/-- Settles O1: the decoder evaluates on the ten words. -/
theorem specWordsDecode : Obligations.SpecWordsDecode := by
  unfold Obligations.SpecWordsDecode
  decide

/-- Settles O2: a packed word decodes by its fields, and each operand leaves the rest of its field zero. -/
theorem decodeOfEncode : Obligations.DecodeOfEncode := by
  intro i
  cases i <;>
    simp [encode, decodeFields, whenZero, high_of_setWidth, boolWord_high, ofCode_code]

/-- Settles O3: the opcode gives the command, and a field whose must-be-zero part is zero is the operand read from it,
zero-extended. -/
theorem encodeOfDecode : Obligations.EncodeOfDecode := by
  intro w i h
  unfold decode decodeFields at h
  split at h
  case h_16 => cases h
  all_goals
    rename_i hop
    obtain ⟨hz, rfl⟩ := whenZero_ok h
    simp only [Bool.and_eq_true, beq_iff_eq] at hz
    refine CmdWord.pack_eq_of_fields (BitVec.eq_of_toNat_eq (by exact hop)) ?_ ?_ ?_ <;>
      simp only [hz, setWidth_low 7 25 rfl, setWidth_low 8 24 rfl, setWidth_low 16 16 rfl, setWidth_low 2 30 rfl,
        boolWord_of_high 31 rfl, boolWord_of_high 3 rfl, code_ofCode]

/-! ## The opcode table -/

theorem CmdWord.eq_iff_fields (v w : CmdWord) :
    v = w ↔ v.op = w.op ∧ v.fl = w.fl ∧ v.opA = w.opA ∧ v.opB = w.opB := by
  refine ⟨fun h => h ▸ ⟨rfl, rfl, rfl, rfl⟩, fun ⟨ho, hf, ha, hb⟩ => ?_⟩
  rw [← pack_fields w, pack_eq_of_fields ho hf ha hb]

/-- A word matches a row field by field. -/
theorem TableRow.fits_iff (r : TableRow) (w : CmdWord) :
    r.fits w = true ↔ w.op &&& r.mask.op = r.pattern.op ∧ w.fl &&& r.mask.fl = r.pattern.fl ∧
      w.opA &&& r.mask.opA = r.pattern.opA ∧ w.opB &&& r.mask.opB = r.pattern.opB := by
  simp only [fits, beq_iff_eq, CmdWord.eq_iff_fields, CmdWord.op, CmdWord.fl, CmdWord.opA, CmdWord.opB,
    BitVec.extractLsb'_and]

/-- A mask of the bits from `k` up sees nothing exactly when they are zero. -/
theorem and_highMask_eq_zero_iff {n : Nat} {mask : BitVec n} (k m : Nat) (hk : n = k + m)
    (hmask : mask = BitVec.allOnes n <<< k) (b : BitVec n) : b &&& mask = 0#n ↔ b.extractLsb' k m = 0#m := by
  subst hk hmask
  constructor
  · intro h
    apply BitVec.eq_of_getLsbD_eq
    intro i hi
    have := congrArg (·.getLsbD (k + i)) h
    simpa [hi] using this
  · intro h
    rw [← setWidth_low k m rfl b h]
    apply BitVec.eq_of_getLsbD_eq
    intro i hi
    by_cases hik : i < k <;> simp [hik]

namespace CmdWord

/-! The fields of a word given as a number. -/

theorem op_ofNat (n : Nat) : op (BitVec.ofNat 72 n) = BitVec.ofNat 4 (n / 2 ^ 68) := by
  apply BitVec.eq_of_toNat_eq
  simp only [op, BitVec.extractLsb'_toNat, BitVec.toNat_ofNat, Nat.shiftRight_eq_div_pow]
  omega

theorem fl_ofNat (n : Nat) : fl (BitVec.ofNat 72 n) = BitVec.ofNat 4 (n / 2 ^ 64) := by
  apply BitVec.eq_of_toNat_eq
  simp only [fl, BitVec.extractLsb'_toNat, BitVec.toNat_ofNat, Nat.shiftRight_eq_div_pow]
  omega

theorem opA_ofNat (n : Nat) : opA (BitVec.ofNat 72 n) = BitVec.ofNat 32 (n / 2 ^ 32) := by
  apply BitVec.eq_of_toNat_eq
  simp only [opA, BitVec.extractLsb'_toNat, BitVec.toNat_ofNat, Nat.shiftRight_eq_div_pow]
  omega

theorem opB_ofNat (n : Nat) : opB (BitVec.ofNat 72 n) = BitVec.ofNat 32 n := by
  apply BitVec.eq_of_toNat_eq
  simp only [opB, BitVec.extractLsb'_toNat, BitVec.toNat_ofNat, Nat.shiftRight_eq_div_pow]
  omega

end CmdWord

/-- The must-be-zero check of a word with the opcode of the command (spec/30_encoding.md R83). -/
def reservedZero (w : CmdWord) : Instr → Bool
  | .attach _ => w.fl == 0#4 && w.opB == 0#32
  | .detach | .reset | .suspend | .resume => w.fl == 0#4 && w.opA == 0#32 && w.opB == 0#32
  | .getreg _ | .getconf _ => w.fl == 0#4 && w.opA == 0#32 && w.opB.extractLsb' 7 25 == 0#25
  | .setreg _ _ => w.fl == 0#4 && w.opA.extractLsb' 7 25 == 0#25 && w.opB.extractLsb' 16 16 == 0#16
  | .setfmt _ | .compose _ => w.fl == 0#4 && w.opA == 0#32 && w.opB.extractLsb' 8 24 == 0#24
  | .setrate _ _ _ | .resolve _ _ _ => w.fl.extractLsb' 1 3 == 0#3
  | .setmute _ | .getstat _ => w.fl == 0#4 && w.opA == 0#32 && w.opB.extractLsb' 1 31 == 0#31
  | .setbias _ => w.fl == 0#4 && w.opA == 0#32 && w.opB.extractLsb' 2 30 == 0#30

/-- The decoder on a word with the opcode of a command. -/
theorem decode_of_op {w : CmdWord} {i : Instr} (h : w.op = i.opcode) :
    ∃ j, decode w = whenZero (reservedZero w i) j ∧ j.row = i.row := by
  unfold decode
  rw [h]
  cases i <;> exact ⟨_, rfl, rfl⟩

theorem op_of_decode {w : CmdWord} {i : Instr} (h : decode w = .ok i) : w.op = i.opcode := by
  rw [← encodeOfDecode w i h, Laws.Opcode.all i]

/-- A word matches the row of a command exactly when its opcode is the command's and the must-be-zero fields are
zero. -/
theorem row_fits_iff (i : Instr) (w : CmdWord) :
    i.row.fits w = true ↔ w.op = i.opcode ∧ reservedZero w i = true := by
  have all4 : ∀ b : BitVec 4, b &&& 0xF#4 = b := fun b => BitVec.and_allOnes
  have all32 : ∀ b : BitVec 32, b &&& 0xFFFFFFFF#32 = b := fun b => BitVec.and_allOnes
  have flagBits : ∀ b : BitVec 4, b &&& 0xE#4 = 0#4 ↔ b.extractLsb' 1 3 = 0#3 :=
    and_highMask_eq_zero_iff 1 3 rfl (by decide)
  have from1 : ∀ b : BitVec 32, b &&& 0xFFFFFFFE#32 = 0#32 ↔ b.extractLsb' 1 31 = 0#31 :=
    and_highMask_eq_zero_iff 1 31 rfl (by decide)
  have from2 : ∀ b : BitVec 32, b &&& 0xFFFFFFFC#32 = 0#32 ↔ b.extractLsb' 2 30 = 0#30 :=
    and_highMask_eq_zero_iff 2 30 rfl (by decide)
  have from7 : ∀ b : BitVec 32, b &&& 0xFFFFFF80#32 = 0#32 ↔ b.extractLsb' 7 25 = 0#25 :=
    and_highMask_eq_zero_iff 7 25 rfl (by decide)
  have from8 : ∀ b : BitVec 32, b &&& 0xFFFFFF00#32 = 0#32 ↔ b.extractLsb' 8 24 = 0#24 :=
    and_highMask_eq_zero_iff 8 24 rfl (by decide)
  have from16 : ∀ b : BitVec 32, b &&& 0xFFFF0000#32 = 0#32 ↔ b.extractLsb' 16 16 = 0#16 :=
    and_highMask_eq_zero_iff 16 16 rfl (by decide)
  rw [TableRow.fits_iff]
  cases i <;>
    simp [Instr.row, Instr.opcode, reservedZero, CmdWord.op_ofNat, CmdWord.fl_ofNat, CmdWord.opA_ofNat,
      CmdWord.opB_ofNat, all4, all32, flagBits, from1, from2, from7, from8, from16, and_assoc]

/-- Settles O4: the decoder accepts a word with the opcode of a command exactly when its must-be-zero fields are zero,
which is what the row asks. -/
theorem decodeFollowsOpcodeTable : Obligations.DecodeFollowsOpcodeTable := by
  have legal : ∀ (w : CmdWord) (i : Instr), i.row.fits w = true → ∃ j, decode w = .ok j ∧ j.row = i.row := by
    intro w i h
    obtain ⟨hop, hz⟩ := (row_fits_iff i w).mp h
    obtain ⟨j, hd, hj⟩ := decode_of_op hop
    exact ⟨j, by rw [hd, hz]; rfl, hj⟩
  refine ⟨fun w i h => ?_, legal, fun w i j hi hj => ?_⟩
  · have hop := op_of_decode h
    obtain ⟨j, hd, -⟩ := decode_of_op hop
    exact (row_fits_iff i w).mpr ⟨hop, (whenZero_ok (hd.symm.trans h)).1⟩
  · obtain ⟨k, hk, hki⟩ := legal w i hi
    obtain ⟨l, hl, hlj⟩ := legal w j hj
    cases hk.symm.trans hl
    exact hki.symm.trans hlj

end Sys2Proof
end

section
/-! The register frame (spec/30_encoding.md R81), the response word (R87) and the cfg byte (R85,
spec/42_interface_format.md R162). -/

namespace Sys2Proof.Machine

/-! ## The register frame -/

/-- Settles O5: the first byte is the address, shifted, with bit 8 of the value below it. -/
theorem frameLayout : Obligations.FrameLayout := by
  intro a v
  have hbyte0 : (frameOf a v).byte0 = a ++ v.extractLsb' 8 1 := by
    apply BitVec.eq_of_getLsbD_eq
    intro i hi
    simp only [frameOf, BitVec.getLsbD_or, BitVec.getLsbD_shiftLeft, BitVec.getLsbD_setWidth,
      BitVec.getLsbD_extractLsb', BitVec.getLsbD_append]
    by_cases h : i < 1 <;> simp [h, hi]
    omega
  refine ⟨?_, ?_, ?_⟩
  · rw [hbyte0, toNat_append_eq_mul_add, BitVec.extractLsb'_toNat, Nat.shiftRight_eq_div_pow]
    omega
  · simp [frameOf, BitVec.extractLsb'_toNat]
  · rw [Frame.word, BitVec.toNat_setWidth_of_le (by decide), toNat_append_eq_mul_add]
    omega

@[simp] theorem Frame.addr_frameOf (a : Addr) (v : Value) : (frameOf a v).addr = a := by
  obtain ⟨h0, -, -⟩ := frameLayout a v
  apply BitVec.eq_of_toNat_eq
  rw [Frame.addr, BitVec.extractLsb'_toNat, Nat.shiftRight_eq_div_pow, h0]
  omega

theorem Frame.data_frameOf (a : Addr) (v : Value) : (frameOf a v).data = v.setWidth 9 := by
  obtain ⟨h0, h1, -⟩ := frameLayout a v
  apply BitVec.eq_of_toNat_eq
  rw [Frame.data, BitVec.toNat_setWidth_of_le (by decide), toNat_append_eq_mul_add, BitVec.extractLsb'_toNat, h0, h1,
    BitVec.toNat_setWidth, Nat.shiftRight_eq_div_pow]
  omega

/-- A frame carries no more than the low nine bits of the value. -/
theorem frameOf_congr (a : Addr) {v w : Value} (h : v.setWidth 9 = w.setWidth 9) : frameOf a v = frameOf a w := by
  obtain ⟨v0, v1, -⟩ := frameLayout a v
  obtain ⟨w0, w1, -⟩ := frameLayout a w
  have hn := congrArg BitVec.toNat h
  simp only [BitVec.toNat_setWidth] at hn
  have h0 : (frameOf a v).byte0 = (frameOf a w).byte0 := BitVec.eq_of_toNat_eq (by omega)
  have h1 : (frameOf a v).byte1 = (frameOf a w).byte1 := BitVec.eq_of_toNat_eq (by omega)
  exact congrArg₂ Frame.mk h0 h1

/-- Settles O6: a frame gives back its address and nine bits of the value, and they determine it. -/
theorem frameCarriesNineBits : Obligations.FrameCarriesNineBits := by
  intro a b v w
  refine ⟨Frame.addr_frameOf a v, Frame.data_frameOf a v, fun h => ⟨?_, ?_⟩, ?_⟩
  · rw [← Frame.addr_frameOf a v, h, Frame.addr_frameOf]
  · rw [← Frame.data_frameOf a v, h, Frame.data_frameOf]
  · rintro ⟨rfl, hvw⟩
    exact frameOf_congr a hvw

/-! ## The response word -/

/-- Settles O8: the word is the concatenation of its fields. -/
theorem responseWordLayout : Obligations.ResponseWordLayout := by
  refine ⟨fun r => ?_, rfl, rfl, rfl, rfl, rfl, rfl, rfl, fun st => ?_⟩
  · rw [Response.word, BitVec.toNat_setWidth_of_le (by decide), toNat_append_eq_mul_add, toNat_append_eq_mul_add,
      toNat_append_eq_mul_add, BitVec.toNat_ofNat]
    omega
  · cases st <;> decide

/-! ## The cfg byte -/

/-- The format codes as a table. -/
theorem formatOfCode_eq_getElem (ff : BitVec 3) :
    formatOfCode ff = [FrameFormat.i2s, .leftJustified, .rightJustified, .dspA, .dspB][ff.toNat]? := by
  revert ff; decide

/-- The width codes as a table. -/
theorem widthOfCode_eq_getElem (w : BitVec 2) :
    widthOfCode w = [SampleWidth.w16, .w20, .w24][w.toNat]? := by
  revert w; decide

theorem formatOfCode_eq_none_iff (ff : BitVec 3) : formatOfCode ff = none ↔ 5 ≤ ff.toNat := by
  rw [formatOfCode_eq_getElem, List.getElem?_eq_none_iff]
  rfl

theorem widthOfCode_eq_none_iff (w : BitVec 2) : widthOfCode w = none ↔ w = 3#2 := by
  revert w; decide

@[simp] theorem formatOfCode_code (ff : FrameFormat) : formatOfCode (FrameFormat.code ff) = some ff := by
  cases ff <;> rfl

@[simp] theorem widthOfCode_code (w : SampleWidth) : widthOfCode (SampleWidth.code w) = some w := by
  cases w <;> rfl

/-! The fields of the byte as numbers. -/

theorem toNat_formatCode (b : BitVec 8) : (b.extractLsb' 1 3).toNat = b.toNat / 2 % 8 := by
  rw [BitVec.extractLsb'_toNat, Nat.shiftRight_eq_div_pow]

theorem toNat_widthCode (b : BitVec 8) : (b.extractLsb' 6 2).toNat = b.toNat / 64 := by
  rw [BitVec.extractLsb'_toNat, Nat.shiftRight_eq_div_pow]
  omega

theorem getLsbD_iff_odd {n : Nat} (b : BitVec n) (i : Nat) : b.getLsbD i = true ↔ b.toNat / 2 ^ i % 2 = 1 := by
  rw [BitVec.getLsbD, Nat.testBit_eq_decide_div_mod_eq, decide_eq_true_eq]

/-- A byte means a configuration exactly when its two codes name a format and a width. -/
theorem interfaceConfig_eq_some_iff (b : BitVec 8) (ic : InterfaceConfig) :
    interfaceConfig b = some ic ↔ formatOfCode (b.extractLsb' 1 3) = some ic.frameFormat ∧
      widthOfCode (b.extractLsb' 6 2) = some ic.sampleWidth ∧ ic.masterMode = b.getLsbD 0 ∧
      ic.bitClockInvert = b.getLsbD 4 ∧ ic.frameClockInvert = b.getLsbD 5 := by
  obtain ⟨m, ff, bci, fci, w⟩ := ic
  unfold interfaceConfig
  cases formatOfCode (b.extractLsb' 1 3) <;> cases widthOfCode (b.extractLsb' 6 2) <;> simp
  grind

theorem interfaceConfig_eq_none_iff (b : BitVec 8) :
    interfaceConfig b = none ↔ formatOfCode (b.extractLsb' 1 3) = none ∨ widthOfCode (b.extractLsb' 6 2) = none := by
  unfold interfaceConfig
  cases formatOfCode (b.extractLsb' 1 3) <;> cases widthOfCode (b.extractLsb' 6 2) <;> simp

/-- The cfg byte as a number. -/
theorem toNat_cfgByte (ic : InterfaceConfig) : (cfgByte ic).toNat =
    64 * (SampleWidth.code ic.sampleWidth).toNat + 32 * ic.frameClockInvert.toNat + 16 * ic.bitClockInvert.toNat +
      2 * (FrameFormat.code ic.frameFormat).toNat + ic.masterMode.toNat := by
  rw [cfgByte, BitVec.toNat_setWidth_of_le (by decide)]
  simp only [toNat_append_eq_mul_add, BitVec.toNat_ofBool]
  omega

/-- Every configuration is what its byte means. -/
theorem interfaceConfig_cfgByte (ic : InterfaceConfig) : interfaceConfig (cfgByte ic) = some ic := by
  have hbyte := toNat_cfgByte ic
  have hm := ic.masterMode.toNat_le
  have hb := ic.bitClockInvert.toNat_le
  have hf := ic.frameClockInvert.toNat_le
  have hff := (FrameFormat.code ic.frameFormat).isLt
  have bit : ∀ (i : Nat) (v : Bool), (cfgByte ic).toNat / 2 ^ i % 2 = v.toNat → v = (cfgByte ic).getLsbD i := by
    intro i v h
    rw [Bool.eq_iff_iff, getLsbD_iff_odd, h]
    cases v <;> simp
  have format : (cfgByte ic).extractLsb' 1 3 = FrameFormat.code ic.frameFormat :=
    BitVec.eq_of_toNat_eq (by rw [toNat_formatCode]; omega)
  have width : (cfgByte ic).extractLsb' 6 2 = SampleWidth.code ic.sampleWidth :=
    BitVec.eq_of_toNat_eq (by rw [toNat_widthCode]; omega)
  rw [interfaceConfig_eq_some_iff, format, width]
  exact ⟨formatOfCode_code _, widthOfCode_code _, bit 0 _ (by omega), bit 4 _ (by omega), bit 5 _ (by omega)⟩

/-- Settles O9: each code names the entry of its table, and the byte of a configuration has its codes. -/
theorem cfgByteMeansConfig : Obligations.CfgByteMeansConfig := by
  refine ⟨fun b ic h => ?_, interfaceConfig_cfgByte, fun b => ?_⟩
  · obtain ⟨hff, hw, hm, hb, hf⟩ := (interfaceConfig_eq_some_iff b ic).mp h
    rw [formatOfCode_eq_getElem, toNat_formatCode] at hff
    rw [widthOfCode_eq_getElem, toNat_widthCode] at hw
    rw [hm, hb, hf, getLsbD_iff_odd, getLsbD_iff_odd, getLsbD_iff_odd]
    exact ⟨by simp, hff, Iff.rfl, Iff.rfl, hw⟩
  · rw [interfaceConfig_eq_none_iff, formatOfCode_eq_none_iff, widthOfCode_eq_none_iff, toNat_formatCode,
      ← BitVec.toNat_inj, toNat_widthCode]
    rfl

/-! ## The composed value -/

theorem composeByte_eq_none_iff (c : Cfg) (b : BitVec 8) : composeByte c b = none ↔
    formatOfCode (b.extractLsb' 1 3) = none ∨ widthOfCode (b.extractLsb' 6 2) = none := by
  rw [composeByte, Option.map_eq_none_iff, interfaceConfig_eq_none_iff]

theorem composeByte_of_codes (c : Cfg) {b : BitVec 8} {ff : FrameFormat} {w : SampleWidth}
    (hff : formatOfCode (b.extractLsb' 1 3) = some ff) (hw : widthOfCode (b.extractLsb' 6 2) = some w) :
    composeByte c b = some ((if b.getLsbD 0 then 0x0040#16 else 0#16) ||| patFmt c ff |||
      patPol c (b.getLsbD 4) (b.getLsbD 5) ||| patWidth c w) := by
  simp only [composeByte, interfaceConfig, hff, hw]
  rfl

/-- The polarity patterns as a table of the two-bit code. -/
theorem patPol_eq_getElem (c : Cfg) (b : BitVec 8) :
    [0x0000#16, c.polBit, c.polFrame, c.polBoth][b.toNat / 16 % 4]? =
      some (patPol c (b.getLsbD 4) (b.getLsbD 5)) := by
  have h4 : b.getLsbD 4 = true ↔ b.toNat / 16 % 2 = 1 := getLsbD_iff_odd b 4
  have h5 : b.getLsbD 5 = true ↔ b.toNat / 32 % 2 = 1 := getLsbD_iff_odd b 5
  cases hb : b.getLsbD 4 <;> cases hf : b.getLsbD 5 <;>
    simp only [hb, hf, Bool.false_eq_true, false_iff, true_iff] at h4 h5
  · rw [show b.toNat / 16 % 4 = 0 by omega]; rfl
  · rw [show b.toNat / 16 % 4 = 2 by omega]; rfl
  · rw [show b.toNat / 16 % 4 = 1 by omega]; rfl
  · rw [show b.toNat / 16 % 4 = 3 by omega]; rfl

/-- Settles O13: the codes pick the four patterns, from the tables or by name. -/
theorem composeOrsTheGroups : Obligations.ComposeOrsTheGroups := by
  intro c b
  refine ⟨fun h => ?_, fun h => ?_, fun ff w => composeByte_of_codes c, fun f p w hf hp hw => ?_⟩
  · exact (composeByte_eq_none_iff c b).mpr (.inl ((formatOfCode_eq_none_iff _).mpr h))
  · exact (composeByte_eq_none_iff c b).mpr (.inr ((widthOfCode_eq_none_iff _).mpr h))
  · have formats : [0x0002#16, c.fmtLJ, 0x0000#16, c.fmtDspA, c.fmtDspB] =
        [FrameFormat.i2s, .leftJustified, .rightJustified, .dspA, .dspB].map (patFmt c) := rfl
    have widths : [0x0000#16, c.w20, 0x0008#16] = [SampleWidth.w16, .w20, .w24].map (patWidth c) := rfl
    rw [formats, List.getElem?_map, ← toNat_formatCode, ← formatOfCode_eq_getElem] at hf
    rw [widths, List.getElem?_map, ← toNat_widthCode, ← widthOfCode_eq_getElem] at hw
    obtain ⟨ff, hff, rfl⟩ := Option.map_eq_some_iff.mp hf
    obtain ⟨sw, hsw, rfl⟩ := Option.map_eq_some_iff.mp hw
    rw [patPol_eq_getElem] at hp
    cases hp
    have role : b.getLsbD 0 = true ↔ b.toNat % 2 = 1 := by simpa using getLsbD_iff_odd b 0
    rw [composeByte_of_codes c hff hsw]
    simp only [role]

end Sys2Proof.Machine
end

section
/-! The cache ports (spec/40_cache_write_protocol.md R111 to R113) and one step of the block: what it does in each
situation at its ports (spec/20_memory.md R59, spec/60_exceptions.md R237, spec/70_reset_and_hazards.md R260, R270). -/

namespace Sys2Proof.Machine

/-! ## The cache ports -/

/-- Settles O10: `RST` has a cell, so a write of it is accepted, and its read is 0 all the same. -/
theorem writeThenRead : Obligations.WriteThenRead := by
  intro s a v shaped
  have hrst := (Cfg.wf_named shaped.1).1
  obtain ⟨-, hx, -⟩ := (shaped_iff s).mp shaped
  refine ⟨fun ha hne => ?_, ?_, fun ha => ?_⟩
  · refine ⟨_, State.memWrite_cell v ha, ?_⟩
    rw [State.memRead_cell (s := s.withCell a v) hne ha, State.xAt_withCell v (hx ▸ ha), if_pos rfl]
  · rintro rfl
    exact ⟨_, State.memWrite_cell v hrst, State.memRead_rst (s.withCell s.cfg.rst v)⟩
  · have hne : a ≠ s.cfg.rst := fun h => absurd hrst (Nat.not_lt.mpr (h ▸ ha))
    exact ⟨State.memWrite_outside v ha, State.memRead_outside hne ha⟩

/-! ## One step -/

theorem step_hardwareReset {s : State} {rest : List HostEvent} (wf : s.cfg.wf = true)
    (h : s.host = .hardwareReset :: rest) : step s = .next { s.hardwareReset with host := rest } := by
  simp only [step_of_wf wf, State.portStep, h]

/-- A block that executes a command goes on with it, unless `rst` comes. -/
theorem step_busy {s : State} {q : Sequencer} (wf : s.cfg.wf = true) (hq : s.seq = some q)
    (h : ∀ rest, s.host ≠ .hardwareReset :: rest) : step s = .next (s.goOn q) := by
  rw [step_of_wf wf, State.portStep, hq]
  split
  · exact absurd ‹_› (h _)
  · simp_all
  · simp_all
  · simp_all

theorem step_command {s : State} {w : CmdWord} {rest : List HostEvent} (wf : s.cfg.wf = true) (hq : s.seq = none)
    (h : s.host = .command w :: rest) : step s = State.runWord { s with host := rest } w := by
  simp only [step_of_wf wf, State.portStep, h, hq]

theorem step_idle {s : State} (wf : s.cfg.wf = true) (hq : s.seq = none) (h : s.host = []) : step s = .next s := by
  simp only [step_of_wf wf, State.portStep, h, hq]

/-- A response to a block that is idle changes the response port only. -/
theorem State.respond_of_idle {s : State} (hq : s.seq = none) (r : Response) :
    s.respond r = { s with rsp := some r } := by
  rw [State.respond, ← hq]

theorem State.raise_of_idle {s : State} (hq : s.seq = none) (st : Status) (aux : BitVec 8) :
    s.raise st aux = s.erred st aux := State.respond_of_idle hq _

/-- No flag is set after the seed. -/
@[simp] theorem getD_confSeeded (c : Cfg) (k : Nat) : (confSeeded c).getD k false = false := by
  rw [confSeeded, List.getD_eq_getElem?_getD, List.getElem?_replicate]
  split <;> rfl

/-- Settles O14: the step is the hardware reset with the event taken. -/
theorem hardwareResetSeeds : Obligations.HardwareResetSeeds := by
  intro s rest shaped hhost
  exact ⟨_, step_hardwareReset shaped.1 hhost, rfl, fun _ _ => rfl, fun a => getD_confSeeded s.cfg a.toNat,
    rfl, rfl, rfl, rfl, rfl, rfl, rfl⟩

/-- Settles O15: the port takes the word and runs what it decodes to. -/
theorem stepRunsDecodedCommand : Obligations.StepRunsDecodedCommand := by
  intro s w i rest wf idle hhost hdec
  rw [step_command wf idle hhost, State.runWord, hdec]

/-- Settles O16: the port takes the word, and the error is a response of an idle block. -/
theorem illegalWordIsAnswered : Obligations.IllegalWordIsAnswered := by
  intro s w e rest wf idle hhost hdec
  rw [step_command wf idle hhost, State.runWord, hdec]
  exact congrArg _ (State.raise_of_idle (s := { s with host := rest }) idle _ _)

/-- Settles O17: both look at the configuration first. -/
theorem illFormedCfgHasNoMeaning : Obligations.IllFormedCfgHasNoMeaning := by
  intro s i h
  constructor
  · simp [step, h]
  · simp [exec_eq, State.command, h]

/-- Going on with a command leaves what waits at the command port. -/
theorem State.goOn_host (s : State) (q : Sequencer) : (s.goOn q).host = s.host := (runOps_ports _ _ _ _).host

/-- Settles O18: a busy block goes on with its command, which leaves the command port alone. -/
theorem busyBlockTakesNoCommand : Obligations.BusyBlockTakesNoCommand := by
  intro s t q w rest hq hhost h
  have wf : s.cfg.wf = true := by
    by_contra hw
    simp [step, hw] at h
  rw [step_busy wf hq fun _ => by simp [hhost]] at h
  cases h
  exact s.goOn_host q

/-- A block whose frame has no answer goes on to itself. -/
theorem State.goOn_unanswered {s : State} {q : Sequencer} {a : Addr} {f : OnFail} {ops : List MicroOp}
    (hq : s.seq = some q) (htodo : q.todo = .send a f :: ops) (h : s.answers = []) : s.goOn q = s := by
  have hdrop : dropDelay s.answers = s.answers := by rw [h]; rfl
  have hwait : ∀ o, microOp (.send a f) { s with seq := o } q = .wait := fun o => by simp only [microOp, sendOp, h]
  rw [State.goOn, htodo, hdrop]
  simp only [runOps, Bool.false_and, Bool.false_eq_true, if_false, hwait, ← htodo, ← hq]

/-- Settles O19: each step is to the same state, so any number of them is. -/
theorem unansweredFrameWaitsForEver : Obligations.UnansweredFrameWaitsForEver := by
  intro s q a f ops k wf hq htodo hans hhost
  have hstep : Sys2Proof.core.step s = .next s := by
    show step s = .next s
    rw [step_busy wf hq hhost, State.goOn_unanswered hq htodo hans]
  induction k with
  | zero => rfl
  | succ k ih => simp only [Host.Core.run, hstep]; exact ih

/-- A well-formed idle block gives every command a next state. -/
theorem exec_goes_on (i : Instr) {s : State} (ready : Ready s) : ∃ t, exec i s = .next t := by
  rw [exec_eq]
  cases hm : (needOf i).met s.attached with
  | true => exact ⟨_, State.command_met ready _ hm⟩
  | false => exact ⟨_, State.command_unmet ready _ hm⟩

/-- Settles O35: by what stands at the ports and whether a command executes. -/
theorem blockNeverStops : Obligations.BlockNeverStops := by
  intro s shaped
  have wf := shaped.1
  match hhost : s.host, hq : s.seq with
  | .hardwareReset :: rest, _ => exact ⟨_, step_hardwareReset wf hhost⟩
  | [], some q => exact ⟨_, step_busy wf hq fun _ => by simp [hhost]⟩
  | .command w :: rest, some q => exact ⟨_, step_busy wf hq fun _ => by simp [hhost]⟩
  | [], none => exact ⟨_, step_idle wf hq hhost⟩
  | .command w :: rest, none =>
    rw [step_command wf hq hhost, State.runWord]
    cases decode w with
    | ok i => exact exec_goes_on i (s := { s with host := rest }) ⟨shaped, hq⟩
    | error e => exact ⟨_, rfl⟩

end Sys2Proof.Machine
end

section
/-! The invariants of a run: the shape of the cache and the meaning of the confirmed flags (spec/10_state.md R29). -/

namespace Sys2Proof.Machine

/-- Settles O32: every micro-operation and the hardware reset keep them. -/
theorem stepKeepsShape : Obligations.StepKeepsShape := by
  intro s t shaped h
  refine step_keeps (P := fun u => Shaped u ∧ u.cfg = s.cfg) ?_ (fun _ _ _ hu => hu) (fun _ _ _ hu => hu) ?_ h
    ⟨shaped, rfl⟩
  · rintro op u q v hl ⟨hu, hcfg⟩
    refine ⟨microOp_shaped hl hu, ?_⟩
    rcases microOp_leaves hl with rfl | rfl | ⟨_, rfl⟩ | rfl | ⟨_, _, _, rfl⟩ | ⟨_, _, _, rfl⟩ | ⟨_, rfl⟩ |
      ⟨_, rfl⟩ <;> exact hcfg
  · rintro u ⟨hu, hcfg⟩
    refine ⟨?_, hcfg⟩
    rw [shaped_iff] at hu ⊢
    exact ⟨hu.1, Cfg.wf_defaults hu.1, List.length_replicate⟩

/-! ## The confirmed flags -/

theorem lastFor_append_singleton (a : Addr) (log : List TxEntry) (e : TxEntry) :
    lastFor a (log ++ [e]) = if e.frame.addr = a then some e else lastFor a log := by
  by_cases h : e.frame.addr = a <;> simp [lastFor, List.filter_append, h]

/-- A write leaves every other cell, whether or not its own is there. -/
theorem State.xAt_withCell_of_ne (s : State) {a b : Addr} (v : Value) (h : b ≠ a) :
    (s.withCell a v).xAt b = s.xAt b := by
  have : a.toNat ≠ b.toNat := fun e => h (BitVec.eq_of_toNat_eq e.symm)
  simp [State.xAt, this]

/-- No flag set: nothing is claimed. -/
theorem confirmed_of_flags_clear {s : State} (h : s.conf = confSeeded s.cfg) : ConfirmedMeansSent s := by
  intro a ha
  rw [State.confAt, h, getD_confSeeded] at ha
  cases ha

/-- A write clears the flag of its cell and leaves the other cells. -/
theorem confirmed_withCell {s : State} (h : ConfirmedMeansSent s) (a : Addr) (v : Value) :
    ConfirmedMeansSent (s.withCell a v) := by
  intro b hb
  rw [State.confAt_withCell] at hb
  split at hb
  · cases hb
  · next hne => rw [State.xAt_withCell_of_ne s v hne]; exact h b hb

/-- A send logs the frame of its cell last, and sets the flag only where it was accepted. -/
theorem confirmed_sent {s : State} (h : ConfirmedMeansSent s) (a : Addr) (ok : Bool) (rest : List TxEvent) :
    ConfirmedMeansSent (s.sent a ok rest) := by
  intro b hb
  rw [State.confAt_sent_le] at hb
  rw [State.sent_txlog, lastFor_append_singleton, Frame.addr_frameOf]
  split at hb
  · next hba =>
    subst hba
    rw [Bool.and_eq_true] at hb
    exact ⟨_, if_pos rfl, hb.1, fun _ => rfl⟩
  · next hne => rw [if_neg (Ne.symm hne)]; exact h b hb

theorem microOp_confirmed {op : MicroOp} {s t : State} {q : Sequencer} (hl : (microOp op s q).Leaves t)
    (h : ConfirmedMeansSent s) : ConfirmedMeansSent t := by
  rcases microOp_leaves hl with rfl | rfl | ⟨_, rfl⟩ | rfl | ⟨a, v, -, rfl⟩ | ⟨a, ok, rest, rfl⟩ | ⟨_, rfl⟩ | ⟨_, rfl⟩
  case inr.inl => exact confirmed_of_flags_clear rfl
  case inr.inr.inr.inr.inl => exact confirmed_withCell h a v
  case inr.inr.inr.inr.inr.inl => exact confirmed_sent h a ok rest
  all_goals exact h

/-- Settles O33: every micro-operation keeps the meaning, and the hardware reset clears every flag. -/
theorem stepKeepsConfirmed : Obligations.StepKeepsConfirmed := by
  intro s t h hstep
  exact step_keeps (fun _ _ _ _ hl => microOp_confirmed hl) (fun _ _ _ hu => hu) (fun _ _ _ hu => hu)
    (fun _ _ => confirmed_of_flags_clear rfl) hstep h

theorem shaped_resetWith {c : Cfg} (h : c.wf = true) : Shaped (State.resetWith c) :=
  (shaped_iff _).mpr ⟨h, Cfg.wf_defaults h, List.length_replicate⟩

/-- Settles O31: the reference configuration is well formed, and hardware reset leaves no flag set. -/
theorem resetHasInvariants : Obligations.ResetHasInvariants :=
  ⟨⟨shaped_resetWith (by decide), rfl⟩, confirmed_of_flags_clear rfl, fun _ => confirmed_of_flags_clear rfl⟩

/-- Settles O34: both invariants hold after reset and every step keeps them. -/
theorem runsFromResetAreSafe : Obligations.RunsFromResetAreSafe := by
  intro c host answers t wf hreach
  induction hreach with
  | start => exact ⟨shaped_resetWith wf, confirmed_of_flags_clear rfl⟩
  | step _ hstep ih => exact ⟨(stepKeepsShape _ _ ih.1 hstep).1, stepKeepsConfirmed _ _ ih.2 hstep⟩

end Sys2Proof.Machine
end

section
/-! The commands that answer at once (spec/40_cache_write_protocol.md R117, R120, spec/41_clock_coefficient.md R145,
spec/42_interface_format.md R164, spec/44_power_lifecycle.md R209), and the lifecycle check before every command
(spec/60_exceptions.md R236). -/

namespace Sys2Proof.Machine

theorem exec_unmet {i : Instr} {s : State} (ready : Ready s) (h : (needOf i).met s.attached = false) :
    exec i s = .next (s.erred .badState 0#8) := by
  rw [exec_eq, State.command_unmet ready _ h]

/-- A command without steps is its answer. -/
theorem exec_of_no_plan {i : Instr} {s : State} (ready : Ready s) (met : (needOf i).met s.attached = true)
    (h : planOf s i = none) : exec i s = .next { s with rsp := some (answerOf s i) } := by
  simp only [exec_eq, State.command_met ready _ met, h]
  exact congrArg _ (State.respond_of_idle (s := { s with rsp := none }) ready.2 _)

/-- The need of an attached block, as a check of the lifecycle. -/
theorem met_of_attached {i : Instr} {s : State} (need : needOf i = .attached) (h : s.attached = true) :
    (needOf i).met s.attached = true := by rw [need, h]; rfl

theorem unmet_of_detached {i : Instr} {s : State} (need : needOf i = .attached) (h : s.attached = false) :
    (needOf i).met s.attached = false := by rw [need, h]; rfl

/-- Settles O23: an unmet requirement is `BadState`. -/
theorem wrongLifecycleIsBadState : Obligations.WrongLifecycleIsBadState := by
  rintro i s ready (⟨need, h⟩ | ⟨need, h⟩) <;> exact exec_unmet ready (by rw [need, h]; rfl)

/-- Settles O26: a report has no steps, so it answers, or its requirement is not met. -/
theorem reportsChangeNothing : Obligations.ReportsChangeNothing := by
  intro i s ready h
  have noPlan : planOf s i = none := by cases i <;> simp_all [reportsOnly, planOf]
  cases met : (needOf i).met s.attached with
  | true => exact ⟨_, exec_of_no_plan ready met noPlan⟩
  | false => exact ⟨_, exec_unmet ready met⟩

/-- Settles O36: the answer is the checked read of the cell. -/
theorem getregReportsCell : Obligations.GetregReportsCell := by
  intro s a ready
  have answers (hatt : s.attached = true) :
      exec (.getreg a) s = .next { s with rsp := some (answerOf s (.getreg a)) } :=
    exec_of_no_plan ready (met_of_attached rfl hatt) rfl
  refine ⟨fun hdet => exec_unmet ready (unmet_of_detached rfl hdet), fun hatt hrst => ?_, fun hatt hne hn => ?_,
    fun hatt hn => ?_⟩
  · rw [answers hatt, answerOf, hrst, State.memRead_rst]
    rfl
  · rw [answers hatt, answerOf, State.memRead_cell hne hn]
    rfl
  · have hne : a ≠ s.cfg.rst := fun h =>
      absurd (Cfg.wf_named ready.1.1).1 (Nat.not_lt.mpr (h ▸ hn))
    rw [answers hatt, answerOf, State.memRead_outside hne hn]
    rfl

/-- Settles O40: the answer is the flag of the cell, by the range check alone. -/
theorem getconfReportsFlag : Obligations.GetconfReportsFlag := by
  intro s a ready
  have answers (hatt : s.attached = true) :
      exec (.getconf a) s = .next { s with rsp := some (answerOf s (.getconf a)) } :=
    exec_of_no_plan ready (met_of_attached rfl hatt) rfl
  refine ⟨fun hdet => exec_unmet ready (unmet_of_detached rfl hdet), fun hatt hn => ?_, fun hatt hn => ?_⟩
  · rw [answers hatt, answerOf, if_pos hn]
    cases s.confAt a <;> rfl
  · rw [answers hatt, answerOf, if_neg (Nat.not_lt.mpr hn)]
    rfl

theorem toNat_rowData (r : CoeffRow) :
    (rowData r).toNat = r.fs.toNat * 65536 + 4 * r.sr.toNat + 2 * r.bosr.toNat + r.usb.toNat := by
  rw [rowData, BitVec.toNat_setWidth_of_le (by decide)]
  simp only [toNat_append_eq_mul_add, BitVec.toNat_ofBool, BitVec.toNat_ofNat]
  omega

/-- Settles O42: the answer is what the resolver gives. -/
theorem resolveReportsRow : Obligations.ResolveReportsRow := by
  intro s strict clk rate ready
  have answers : exec (.resolve strict clk rate) s = _ := exec_of_no_plan ready rfl rfl
  refine ⟨fun k r h => ⟨rowData r, toNat_rowData r, ?_⟩, fun h => ?_⟩
  · rw [answers, answerOf, h]
    rfl
  · rw [answers, answerOf, h]
    rfl

/-- Settles O44: the answer is what the composer gives. -/
theorem composeReportsValue : Obligations.ComposeReportsValue := by
  intro s b ready
  have answers : exec (.compose b) s = _ := exec_of_no_plan ready rfl rfl
  refine ⟨fun v h => ?_, fun h => ?_⟩
  · rw [answers, answerOf, h]
    rfl
  · rw [answers, answerOf, h]
    rfl

theorem toNat_statusData (attached : Bool) (pending bias : BiasLevel) :
    (statusData attached pending bias).toNat = 16 * attached.toNat + 4 * pending.code.toNat + bias.code.toNat := by
  rw [statusData, BitVec.toNat_setWidth_of_le (by decide)]
  simp only [toNat_append_eq_mul_add, BitVec.toNat_ofBool, BitVec.toNat_ofNat]
  omega

/-- Settles O60: the answer is the control state or the clock. -/
theorem getstatReportsControl : Obligations.GetstatReportsControl := by
  refine ⟨⟨rfl, rfl, rfl, rfl⟩, fun s ready => ⟨⟨_, toNat_statusData s.attached s.pending s.bias, ?_⟩, ?_⟩⟩
  · exact exec_of_no_plan (i := .getstat false) ready rfl rfl
  · exact exec_of_no_plan (i := .getstat true) ready rfl rfl

end Sys2Proof.Machine
end

section
/-! Runs of a command's steps, said once: every way a run can go, step by step (spec/10_state.md R32,
spec/20_memory.md R58). -/

namespace Sys2Proof.Machine

/-! ## One step -/

/-- The step sends a frame. -/
def MicroOp.isSend : MicroOp → Bool
  | .send _ _ => true
  | _ => false

theorem microOp_write_of_eval {s : State} {a : Addr} {src : Source} {v : Value} (q : Sequencer)
    (hv : src.eval s a = some v) (ha : a.toNat < s.cfg.n) : microOp (.write a src) s q = .go (s.withCell a v) q := by
  simp only [microOp, writeOp, hv, Option.bind_some, State.memWrite_cell v ha]

theorem microOp_write_refused {s : State} {a : Addr} {src : Source} (q : Sequencer)
    (h : (src.eval s a).bind (s.memWrite a) = none) :
    microOp (.write a src) s q = .raised s .outOfRange (a.setWidth 8) := by
  simp only [microOp, writeOp, h]

/-- A cache write is refused, or its cell exists and its value was read. -/
theorem write_refused_or (s : State) (a : Addr) (src : Source) :
    (src.eval s a).bind (s.memWrite a) = none ∨ ∃ v, src.eval s a = some v ∧ a.toNat < s.cfg.n := by
  cases h : (src.eval s a).bind (s.memWrite a) with
  | none => exact .inl rfl
  | some t =>
    obtain ⟨v, hv, hw⟩ := Option.bind_eq_some_iff.mp h
    exact .inr ⟨v, hv, (State.memWrite_eq_some hw).1⟩

theorem microOp_send_waits {s : State} {a : Addr} {f : OnFail} {q : Sequencer}
    (h : ∀ err acc rest, s.answers ≠ .answer err acc :: rest) : microOp (.send a f) s q = .wait := by
  simp only [microOp, sendOp]
  split
  · next heq => exact absurd heq (h _ _ _)
  · rfl
  · rfl

section
variable {s : State} {a : Addr} {f : OnFail} {q : Sequencer} {err : Bool} {acc : BitVec 2} {rest : List TxEvent}

theorem microOp_send_accepted (answer : s.answers = .answer err acc :: rest) (ok : txOk err acc = true) :
    microOp (.send a f) s q = .go (s.sent a true rest) q.counted := by
  rw [microOp_send_answer answer, ok, if_pos rfl]

theorem microOp_send_recorded (answer : s.answers = .answer err acc :: rest) (failed : txOk err acc = false) :
    microOp (.send a .record) s q = .go (s.sent a false rest) q.noted.counted := by
  rw [microOp_send_answer answer, failed, if_neg Bool.false_ne_true]

theorem microOp_send_stageEnded (answer : s.answers = .answer err acc :: rest) (failed : txOk err acc = false) :
    microOp (.send a .endStage) s q = .skip (s.sent a false rest) q.noted.counted := by
  rw [microOp_send_answer answer, failed, if_neg Bool.false_ne_true]

theorem microOp_send_aborted (answer : s.answers = .answer err acc :: rest) (failed : txOk err acc = false) :
    microOp (.send a .abort) s q = .raised (s.sent a false rest) .ioError q.fcnt := by
  rw [microOp_send_answer answer, failed, if_neg Bool.false_ne_true]

end

theorem microOp_send_leaves {s : State} {a : Addr} {err : Bool} {acc : BitVec 2} {rest : List TxEvent} (f : OnFail)
    (q : Sequencer) (h : s.answers = .answer err acc :: rest) {ok : Bool} (hok : txOk err acc = ok) :
    (microOp (.send a f) s q).Leaves (s.sent a ok rest) := by
  rw [microOp_send_answer h, hok]
  cases ok <;> cases f <;> rfl

/-- A step that sends nothing goes on, or its cache write is refused. -/
theorem microOp_of_not_send {op : MicroOp} (s : State) (q : Sequencer) (h : op.isSend = false) :
    (∃ t, microOp op s q = .go t q ∧ t.txlog = s.txlog ∧ t.answers = s.answers) ∨
      ∃ a src, op = .write a src ∧ (src.eval s a).bind (s.memWrite a) = none ∧
        microOp op s q = .raised s .outOfRange (a.setWidth 8) := by
  cases op with
  | write a src =>
    rcases write_refused_or s a src with hnone | ⟨v, hv, ha⟩
    · exact .inr ⟨a, src, rfl, hnone, microOp_write_refused q hnone⟩
    · exact .inl ⟨_, microOp_write_of_eval q hv ha, rfl, rfl⟩
  | send a f => cases h
  | seed | setSysclk _ | savePending | stage | recordBias _ | setAttached _ => exact .inl ⟨_, rfl, rfl, rfl⟩

/-! ## A run -/

/-- Every way a run of steps can go, to the state it leads to: a step that sends nothing goes on; a frame is accepted,
or it fails and the failure is recorded, ends its stage or ends the command, or it waits; a cache write is refused. -/
inductive Runs : Bool → List MicroOp → State → Sequencer → State → Prop
  | done {skipping : Bool} {s : State} {q : Sequencer} : Runs skipping [] s q (s.respond q.result)
  | skipped {op : MicroOp} {ops : List MicroOp} {s t : State} {q : Sequencer} (notStage : op ≠ .stage) :
      Runs true ops s q t → Runs true (op :: ops) s q t
  | nextStage {ops : List MicroOp} {s t : State} {q : Sequencer} :
      Runs false ops s q t → Runs true (.stage :: ops) s q t
  | silent {op : MicroOp} {ops : List MicroOp} {s u t : State} {q : Sequencer} (notSend : op.isSend = false)
      (goes : microOp op s q = .go u q) (log : u.txlog = s.txlog) (answers : u.answers = s.answers) :
      Runs false ops u q t → Runs false (op :: ops) s q t
  | accepted {a : Addr} {f : OnFail} {err : Bool} {acc : BitVec 2} {rest : List TxEvent} {ops : List MicroOp}
      {s t : State} {q : Sequencer} (answer : s.answers = .answer err acc :: rest) (ok : txOk err acc = true) :
      Runs false ops (s.sent a true rest) q.counted t → Runs false (.send a f :: ops) s q t
  | recorded {a : Addr} {err : Bool} {acc : BitVec 2} {rest : List TxEvent} {ops : List MicroOp} {s t : State}
      {q : Sequencer} (answer : s.answers = .answer err acc :: rest) (failed : txOk err acc = false) :
      Runs false ops (s.sent a false rest) q.noted.counted t → Runs false (.send a .record :: ops) s q t
  | stageEnded {a : Addr} {err : Bool} {acc : BitVec 2} {rest : List TxEvent} {ops : List MicroOp} {s t : State}
      {q : Sequencer} (answer : s.answers = .answer err acc :: rest) (failed : txOk err acc = false) :
      Runs true ops (s.sent a false rest) q.noted.counted t → Runs false (.send a .endStage :: ops) s q t
  | aborted {a : Addr} {err : Bool} {acc : BitVec 2} {rest : List TxEvent} {ops : List MicroOp} {s : State}
      {q : Sequencer} (answer : s.answers = .answer err acc :: rest) (failed : txOk err acc = false) :
      Runs false (.send a .abort :: ops) s q ((s.sent a false rest).raise .ioError q.fcnt)
  | waits {a : Addr} {f : OnFail} {ops : List MicroOp} {s : State} {q : Sequencer}
      (noAnswer : ∀ err acc rest, s.answers ≠ .answer err acc :: rest) :
      Runs false (.send a f :: ops) s q { s with seq := some { q with todo := .send a f :: ops } }
  | refused {a : Addr} {src : Source} {ops : List MicroOp} {s : State} {q : Sequencer}
      (none : (src.eval s a).bind (s.memWrite a) = none) :
      Runs false (.write a src :: ops) s q (s.raise .outOfRange (a.setWidth 8))

/-! The equations of a run, one for each case of its first step. -/

theorem runOps_skip {op : MicroOp} (ops : List MicroOp) (s : State) (q : Sequencer) (h : op ≠ .stage) :
    runOps true (op :: ops) s q = runOps true ops s q := by simp [runOps, h]

theorem runOps_go {op : MicroOp} {s t : State} {q q' : Sequencer} (ops : List MicroOp)
    (h : microOp op s q = .go t q') : runOps false (op :: ops) s q = runOps false ops t q' := by simp [runOps, h]

theorem runOps_endStage {op : MicroOp} {s t : State} {q q' : Sequencer} (ops : List MicroOp)
    (h : microOp op s q = .skip t q') : runOps false (op :: ops) s q = runOps true ops t q' := by simp [runOps, h]

theorem runOps_wait {op : MicroOp} {s : State} {q : Sequencer} (ops : List MicroOp) (h : microOp op s q = .wait) :
    runOps false (op :: ops) s q = { s with seq := some { q with todo := op :: ops } } := by simp [runOps, h]

theorem runOps_raise {op : MicroOp} {s t : State} {q : Sequencer} {st : Status} {aux : BitVec 8}
    (ops : List MicroOp) (h : microOp op s q = .raised t st aux) :
    runOps false (op :: ops) s q = t.raise st aux := by simp [runOps, h]

/-- A run goes one of these ways. -/
theorem runs_runOps (skipping : Bool) (ops : List MicroOp) (s : State) (q : Sequencer) :
    Runs skipping ops s q (runOps skipping ops s q) := by
  induction ops generalizing skipping s q with
  | nil => exact .done
  | cons op ops ih =>
    cases skipping with
    | true =>
      by_cases h : op = .stage
      · subst h; exact .nextStage (ih false s q)
      · rw [runOps_skip ops s q h]; exact .skipped h (ih true s q)
    | false =>
      cases hsend : op.isSend with
      | false =>
        rcases microOp_of_not_send s q hsend with ⟨t, hgo, hlog, hans⟩ | ⟨a, src, rfl, hnone, hraise⟩
        · rw [runOps_go ops hgo]; exact .silent hsend hgo hlog hans (ih false t q)
        · rw [runOps_raise ops hraise]; exact .refused hnone
      | true =>
        cases op with
        | send a f =>
          by_cases h : ∃ err acc rest, s.answers = .answer err acc :: rest
          · obtain ⟨err, acc, rest, h⟩ := h
            cases hok : txOk err acc with
            | true => rw [runOps_go ops (microOp_send_accepted h hok)]; exact .accepted h hok (ih _ _ _)
            | false =>
              cases f with
              | abort => rw [runOps_raise ops (microOp_send_aborted h hok)]; exact .aborted h hok
              | endStage =>
                rw [runOps_endStage ops (microOp_send_stageEnded h hok)]
                exact .stageEnded h hok (ih _ _ _)
              | record => rw [runOps_go ops (microOp_send_recorded h hok)]; exact .recorded h hok (ih _ _ _)
          · have noAnswer : ∀ err acc rest, s.answers ≠ .answer err acc :: rest := by simpa using h
            rw [runOps_wait ops (microOp_send_waits noAnswer)]; exact .waits noAnswer
        | _ => cases hsend

/-- What each step of the list keeps, and what does not look at the sequencer or the response port, holds after the
run. -/
theorem Runs.keeps {P : State → Prop} {skipping : Bool} {ops : List MicroOp} {s t : State} {q : Sequencer}
    (h : Runs skipping ops s q t) (hop : ∀ op ∈ ops, ∀ s q t, (microOp op s q).Leaves t → P s → P t)
    (hend : ∀ s o r, P s → P { s with seq := o, rsp := r }) (hs : P s) : P t := by
  have later {op : MicroOp} {ops : List MicroOp}
      (hop : ∀ o ∈ op :: ops, ∀ s q t, (microOp o s q).Leaves t → P s → P t) :
      ∀ o ∈ ops, ∀ s q t, (microOp o s q).Leaves t → P s → P t := fun o ho => hop o (.tail _ ho)
  induction h with
  | done => exact hend _ _ _ hs
  | skipped _ _ ih => exact ih (later hop) hs
  | nextStage _ ih => exact ih (later hop) hs
  | silent _ goes _ _ _ ih => exact ih (later hop) (hop _ (.head _) _ _ _ (by rw [goes]; rfl) hs)
  | accepted answer ok _ ih => exact ih (later hop) (hop _ (.head _) _ _ _ (microOp_send_leaves _ q answer ok) hs)
  | recorded answer failed _ ih | stageEnded answer failed _ ih =>
    exact ih (later hop) (hop _ (.head _) _ _ _ (microOp_send_leaves _ q answer failed) hs)
  | aborted answer failed => exact hend _ _ _ (hop _ (.head _) _ _ _ (microOp_send_leaves _ q answer failed) hs)
  | waits _ => exact hend _ _ _ hs
  | refused _ => exact hend _ _ _ hs

end Sys2Proof.Machine
end

section
/-! What the steps of each command may be (spec/10_state.md R36), and what a command that ends leaves. -/

namespace Sys2Proof.Machine

/-! ## The steps of a command -/

/-- What a step in the list of command `i` says of the command: who seeds, who writes which cell, whose failed send ends
the command, and who records what. -/
def Instr.mayRun (c : Cfg) (i : Instr) : MicroOp → Prop
  | .seed => seeds i = true
  | .setSysclk _ => (∃ clk, i = .attach clk) ∨ ∃ strict clk rate, i = .setrate strict clk rate
  | .savePending => i = .suspend
  | .write a _ => (∀ as, cellsWritten c i = some as → a ∈ as) ∧ ((∃ v, i = .setreg a v) ∨ a.toNat < c.n)
  | .send _ f => f = .abort ↔ i ≠ .resume
  | .stage => i = .resume
  | .recordBias _ => i = .suspend ∨ i = .resume ∨ (∃ l, i = .setbias l) ∨ ∃ clk, i = .attach clk
  | .setAttached _ => i = .detach ∨ ∃ clk, i = .attach clk

theorem mayRun_of_plan {s : State} (wf : s.cfg.wf = true) {i : Instr} {ops : List MicroOp} {reply : Response}
    (h : planOf s i = some (ops, reply)) : ∀ op ∈ ops, Instr.mayRun s.cfg i op := by
  obtain ⟨hrst, hpwr, hact, hiface, hsrate, hdig, hl, hr⟩ := Cfg.wf_named wf
  cases i with
  | getreg _ | resolve _ _ _ | compose _ | getstat _ | getconf _ => cases h
  | setfmt b =>
    obtain ⟨v, -, hv⟩ := Option.map_eq_some_iff.mp h
    cases hv
    simp [program, Instr.mayRun, cellsWritten, hiface]
  | setrate strict clk rate =>
    obtain ⟨m, -, hm⟩ := Option.map_eq_some_iff.mp h
    cases hm
    simp [program, Instr.mayRun, cellsWritten, hsrate]
  | setbias l =>
    cases h
    cases l <;> simp [biasStep, program, Instr.mayRun, cellsWritten, hpwr, hact]
  | resume =>
    cases h
    cases s.pending <;>
      simp [biasStep, program, replay, Instr.mayRun, cellsWritten, hpwr, hact, or_imp, forall_and]
  | attach _ | detach | setreg _ _ | reset | setmute _ | suspend =>
    cases h
    simp [resetOp, biasStep, program, Instr.mayRun, cellsWritten, seeds, hrst, hpwr, hact, hdig, hl, hr]

/-- The frames in a list of steps. -/
def sends (ops : List MicroOp) : Nat := ops.countP MicroOp.isSend

@[simp] theorem sends_append (ops ops' : List MicroOp) : sends (ops ++ ops') = sends ops + sends ops' :=
  List.countP_append

theorem sends_cons_send (a : Addr) (f : OnFail) (ops : List MicroOp) : sends (.send a f :: ops) = sends ops + 1 :=
  List.countP_cons_of_pos rfl

theorem sends_cons_of_not_send {op : MicroOp} (h : op.isSend = false) (ops : List MicroOp) :
    sends (op :: ops) = sends ops := List.countP_cons_of_neg (by simp [h])

theorem sends_le_cons (op : MicroOp) (ops : List MicroOp) : sends ops ≤ sends (op :: ops) := by
  simp only [sends, List.countP_cons, Nat.le_add_right]

/-! ## The addresses of the replay -/

/-- Every cell's address, ascending. -/
def cellAddrs (c : Cfg) : List Addr := (List.range c.n).map (BitVec.ofNat 7)

theorem cellAddrs_ascending {c : Cfg} (wf : c.wf = true) :
    (cellAddrs c).Pairwise fun a b => a.toNat < b.toNat := by
  obtain ⟨-, hn⟩ := Cfg.wf_count wf
  rw [cellAddrs, List.pairwise_map]
  refine List.pairwise_lt_range.imp_of_mem fun hj hk hlt => ?_
  rw [List.mem_range] at hj hk
  rw [BitVec.toNat_ofNat, BitVec.toNat_ofNat]
  omega

theorem mem_cellAddrs {c : Cfg} (wf : c.wf = true) (a : Addr) : a ∈ cellAddrs c ↔ a.toNat < c.n := by
  obtain ⟨-, hn⟩ := Cfg.wf_count wf
  simp only [cellAddrs, List.mem_map, List.mem_range]
  constructor
  · rintro ⟨k, hk, rfl⟩
    rw [BitVec.toNat_ofNat]
    omega
  · exact fun h => ⟨a.toNat, h, by simp⟩

theorem nodup_of_ascending {as : List Addr} (h : as.Pairwise fun a b => a.toNat < b.toNat) : as.Nodup :=
  h.imp fun {a b} hlt (heq : a = b) => by subst heq; exact absurd hlt (Nat.lt_irrefl _)

theorem replayAddrs_eq_filter (c : Cfg) : replayAddrs c = (cellAddrs c).filter (· != c.rst) := rfl

theorem replayAddrs_ascending {c : Cfg} (wf : c.wf = true) :
    (replayAddrs c).Pairwise fun a b => a.toNat < b.toNat := (cellAddrs_ascending wf).filter _

theorem mem_replayAddrs {c : Cfg} (wf : c.wf = true) (a : Addr) :
    a ∈ replayAddrs c ↔ a.toNat < c.n ∧ a ≠ c.rst := by
  rw [replayAddrs_eq_filter, List.mem_filter, mem_cellAddrs wf, bne_iff_ne]

/-- The replay leaves out `RST` alone. -/
theorem length_replayAddrs {c : Cfg} (wf : c.wf = true) : (replayAddrs c).length = c.n - 1 := by
  have rst : c.rst ∈ cellAddrs c := (mem_cellAddrs wf _).mpr (Cfg.wf_named wf).1
  rw [replayAddrs_eq_filter, ← (nodup_of_ascending (cellAddrs_ascending wf)).erase_eq_filter,
    List.length_erase_of_mem rst, cellAddrs, List.length_map, List.length_range]

theorem sends_replay {c : Cfg} (wf : c.wf = true) : sends (replay c) = c.n - 1 := by
  rw [← length_replayAddrs wf, replay, sends, List.countP_map]
  exact List.countP_eq_length.mpr fun _ _ => rfl

theorem sends_biasStep (c : Cfg) (l : BiasLevel) (f : OnFail) :
    sends (biasStep c l f) = match l with | .on => 1 | .standby => 1 | .prepare => 0 | .off => 2 := by
  cases l <;> rfl

/-- No command sends more than 130 frames: a `RESUME` replays at most 127 cells and sends three frames more. -/
theorem sends_le_of_plan {s : State} (wf : s.cfg.wf = true) {i : Instr} {ops : List MicroOp} {reply : Response}
    (h : planOf s i = some (ops, reply)) : sends ops ≤ 130 := by
  obtain ⟨-, hn⟩ := Cfg.wf_count wf
  cases i with
  | getreg _ | resolve _ _ _ | compose _ | getstat _ | getconf _ => cases h
  | setfmt b =>
    obtain ⟨v, -, hv⟩ := Option.map_eq_some_iff.mp h
    cases hv
    exact Nat.le_of_ble_eq_true rfl
  | setrate strict clk rate =>
    obtain ⟨m, -, hm⟩ := Option.map_eq_some_iff.mp h
    cases hm
    exact Nat.le_of_ble_eq_true rfl
  | setbias l =>
    cases h
    cases l <;> exact Nat.le_of_ble_eq_true rfl
  | resume =>
    cases h
    simp only [sends_append, sends_replay wf, sends_cons_of_not_send (op := .stage) rfl, sends_biasStep]
    cases s.pending <;> simp only <;> omega
  | attach _ | detach | setreg _ _ | reset | setmute _ | suspend =>
    cases h
    exact Nat.le_of_ble_eq_true rfl

/-! ## How a command ends -/

theorem reply_of_plan {s : State} {i : Instr} {ops : List MicroOp} {reply : Response}
    (h : planOf s i = some (ops, reply)) : reply.status = .ok := by
  cases i with
  | getreg _ | resolve _ _ _ | compose _ | getstat _ | getconf _ => cases h
  | setfmt b =>
    obtain ⟨v, -, hv⟩ := Option.map_eq_some_iff.mp h
    cases hv
    rfl
  | setrate strict clk rate =>
    obtain ⟨m, -, hm⟩ := Option.map_eq_some_iff.mp h
    cases hm
    rfl
  | attach _ | detach | setreg _ _ | reset | setmute _ | setbias _ | suspend | resume => cases h; rfl

theorem answerOf_ne_ioError (s : State) (i : Instr) : (answerOf s i).status ≠ .ioError := by
  cases i with
  | getreg _ | getconf _ | resolve _ _ _ | setrate _ _ _ | compose _ | setfmt _ =>
    simp only [answerOf]
    split <;> exact nofun
  | getstat _ | attach _ | detach | setreg _ _ | reset | setmute _ | setbias _ | suspend | resume => exact nofun

/-- A command runs its steps from the state whose response port is empty. -/
theorem runs_launch (ops : List MicroOp) (reply : Response) (s : State) :
    Runs false ops s ⟨[], 0#8, none, reply⟩ (State.launch ops reply s) := runs_runOps _ _ _ _

/-- How a command of a ready block can end: its requirement is not met, it answers at once, or it runs its steps. -/
theorem ends_cases {i : Instr} {s t : State} {r : Response} (h : Ends i s t r) :
    (r = Response.error .badState 0#8 ∧ t = { s with rsp := some r }) ∨
    (planOf s i = none ∧ r = answerOf s i ∧ t = { s with rsp := some r }) ∨
    ((needOf i).met s.attached = true ∧ ∃ ops reply, planOf s i = some (ops, reply) ∧
      Runs false ops { s with rsp := none } ⟨[], 0#8, none, reply⟩ t) := by
  obtain ⟨hexec, -, hrsp⟩ := h
  obtain ⟨-, idle, ⟨-, rfl⟩ | ⟨met, ⟨noPlan, rfl⟩ | ⟨ops, reply, plan, rfl⟩⟩⟩ := exec_eq_next hexec
  · cases hrsp
    exact .inl ⟨rfl, State.respond_of_idle idle _⟩
  · cases hrsp
    exact .inr (.inl ⟨noPlan, rfl, State.respond_of_idle idle _⟩)
  · exact .inr (.inr ⟨met, ops, reply, plan, runs_launch _ _ _⟩)

/-- Settles O22: a command responds at once, or its run ends with a response or waits with none. -/
theorem oneResponsePerCommand : Obligations.OneResponsePerCommand := by
  intro i s t ready h
  obtain ⟨-, -, ⟨-, rfl⟩ | ⟨-, ⟨-, rfl⟩ | ⟨ops, reply, -, rfl⟩⟩⟩ := exec_eq_next h
  · exact .inl ⟨rfl, _, rfl⟩
  · exact .inl ⟨rfl, _, rfl⟩
  · exact runOps_end ops false { s with rsp := none } _

/-- A run with an answer for each of its frames ends. -/
theorem Runs.ends_of_answers {skipping : Bool} {ops : List MicroOp} {s t : State} {q : Sequencer}
    (h : Runs skipping ops s q t) {bs rest : List TxEvent} (answers : s.answers = bs ++ rest)
    (answered : ∀ e ∈ bs, e.isAnswer = true) (enough : sends ops ≤ bs.length) : t.seq = none := by
  induction h generalizing bs with
  | done => rfl
  | skipped _ _ ih => exact ih answers answered ((sends_le_cons _ _).trans enough)
  | nextStage _ ih => exact ih answers answered ((sends_le_cons _ _).trans enough)
  | silent notSend _ _ hans _ ih => exact ih (hans.trans answers) answered ((sends_le_cons _ _).trans enough)
  | aborted _ _ => rfl
  | refused _ => rfl
  | accepted answer _ _ ih | recorded answer _ _ ih | stageEnded answer _ _ ih =>
    rw [sends_cons_send] at enough
    obtain ⟨e, bs, rfl⟩ := List.exists_cons_of_length_pos (Nat.lt_of_lt_of_le (Nat.succ_pos _) enough)
    rw [answer] at answers
    cases answers
    exact ih rfl (fun e he => answered e (.tail _ he)) (Nat.le_of_succ_le_succ enough)
  | waits noAnswer =>
    rw [sends_cons_send] at enough
    obtain ⟨e, bs, rfl⟩ := List.exists_cons_of_length_pos (Nat.lt_of_lt_of_le (Nat.succ_pos _) enough)
    cases e with
    | answer err acc => exact absurd answers (noAnswer err acc _)
    | delay => exact nomatch answered _ (.head _)

/-- Settles O21: the run of any command has at most 130 frames, and each has its answer. -/
theorem answeredCommandsEnd : Obligations.AnsweredCommandsEnd := by
  intro i s ready enough answered
  obtain ⟨t, hexec⟩ := exec_goes_on i ready
  have ended : t.seq = none := by
    obtain ⟨wf, -, ⟨-, rfl⟩ | ⟨-, ⟨-, rfl⟩ | ⟨ops, reply, plan, rfl⟩⟩⟩ := exec_eq_next hexec
    · rfl
    · rfl
    · have atMost : sends ops ≤ (s.answers.take 130).length := by
        rw [List.length_take, Nat.min_eq_left enough]
        exact sends_le_of_plan wf plan
      exact (runs_launch ops reply { s with rsp := none }).ends_of_answers (List.take_append_drop 130 _).symm answered
        atMost
  obtain ⟨-, r, hr⟩ | ⟨⟨q, hq⟩, -⟩ := oneResponsePerCommand i s t ready hexec
  · exact ⟨t, r, hexec, ended, hr⟩
  · rw [ended] at hq
    cases hq

end Sys2Proof.Machine
end

section
/-! A command whose answers come late (spec/20_memory.md section 5): the wait is transparent. -/

namespace Sys2Proof.Machine

/-- A ready block whose requirement is met runs the steps of a command that has some. -/
theorem exec_of_plan {i : Instr} {s : State} (ready : Ready s) (met : (needOf i).met s.attached = true)
    {ops : List MicroOp} {reply : Response} (plan : planOf s i = some (ops, reply)) :
    exec i s = .next (State.launch ops reply { s with rsp := none }) := by
  simp only [exec_eq, State.command_met ready _ met, plan]

/-- The value of a `Program` depends on the configuration and the cells alone. -/
theorem Source.eval_congr {s t : State} (hcfg : t.cfg = s.cfg) (hx : t.x = s.x) {a : Addr} {src : Source} :
    src.eval t a = src.eval s a := by
  have hread : t.memRead a = s.memRead a := by simp only [State.memRead, State.xAt, hcfg, hx]
  cases src <;> simp only [Source.eval, hread]

/-- A step that sends nothing looks neither at the answers nor at the sequencer. -/
theorem microOp_go_congr {op : MicroOp} {s u : State} {q : Sequencer} (notSend : op.isSend = false)
    (goes : microOp op s q = .go u q) (as : List TxEvent) (p : Sequencer) :
    microOp op { s with answers := as } p = .go { u with answers := as } p := by
  cases op with
  | write a src =>
    rcases write_refused_or s a src with hnone | ⟨v, hv, ha⟩
    · rw [microOp_write_refused q hnone] at goes
      cases goes
    · rw [microOp_write_of_eval q hv ha] at goes
      cases goes
      exact microOp_write_of_eval p ((Source.eval_congr rfl rfl).trans hv) ha
  | send a f => cases notSend
  | seed | setSysclk _ | savePending | stage | recordBias _ | setAttached _ => cases goes; rfl

/-- The list of steps stored in the sequencer does not matter to a run: only a frame that waits stores it. -/
theorem Runs.todo_irrelevant {skipping : Bool} {ops : List MicroOp} {s t : State} {q : Sequencer}
    (h : Runs skipping ops s q t) (todo : List MicroOp) : runOps skipping ops s { q with todo := todo } = t := by
  induction h with
  | done => rfl
  | skipped notStage _ ih => rw [runOps_skip _ _ _ notStage, ih]
  | nextStage _ ih => exact ih
  | @silent op ops s u t q notSend goes _ answers _ ih =>
    have same : microOp op s { q with todo := todo } = .go { u with answers := s.answers } { q with todo := todo } :=
      microOp_go_congr notSend goes s.answers _
    rw [runOps_go ops same, ← answers]
    exact ih
  | accepted answer ok _ ih => rw [runOps_go _ (microOp_send_accepted answer ok)]; exact ih
  | recorded answer failed _ ih => rw [runOps_go _ (microOp_send_recorded answer failed)]; exact ih
  | stageEnded answer failed _ ih => rw [runOps_endStage _ (microOp_send_stageEnded answer failed)]; exact ih
  | aborted answer failed => rw [runOps_raise _ (microOp_send_aborted answer failed)]
  | waits noAnswer => rw [runOps_wait _ (microOp_send_waits noAnswer)]
  | refused none => rw [runOps_raise _ (microOp_write_refused _ none)]

/-- A run that waits with no answer left goes on, when more answers come, as it would have gone with all of them. -/
theorem Runs.goes_on {skipping : Bool} {ops : List MicroOp} {s t : State} {q p : Sequencer}
    (h : Runs skipping ops s q t) (idle : s.seq = none) (waiting : t.seq = some p) (used : t.answers = [])
    (late : List TxEvent) :
    runOps false p.todo { t with seq := none, answers := late } p =
      runOps skipping ops { s with answers := s.answers ++ late } q := by
  have more {s : State} {e : TxEvent} {rest : List TxEvent} (answer : s.answers = e :: rest) (late : List TxEvent) :
      State.answers { s with answers := s.answers ++ late } = e :: (rest ++ late) := by rw [answer]; rfl
  induction h with
  | done => cases waiting
  | skipped notStage _ ih => rw [runOps_skip _ _ _ notStage, ih idle waiting used]
  | nextStage _ ih => exact ih idle waiting used
  | @silent op ops s u t q notSend goes _ answers _ ih =>
    have uidle : u.seq = none := by
      rcases microOp_leaves (t := u) (by rw [goes]; rfl) with rfl | rfl | ⟨_, rfl⟩ | rfl | ⟨_, _, _, rfl⟩ |
        ⟨_, _, _, rfl⟩ | ⟨_, rfl⟩ | ⟨_, rfl⟩ <;> exact idle
    rw [ih uidle waiting used, runOps_go _ (microOp_go_congr notSend goes (s.answers ++ late) q), answers]
  | accepted answer ok _ ih =>
    rw [ih idle waiting used, runOps_go _ (microOp_send_accepted (more answer late) ok)]
    rfl
  | recorded answer failed _ ih =>
    rw [ih idle waiting used, runOps_go _ (microOp_send_recorded (more answer late) failed)]
    rfl
  | stageEnded answer failed _ ih =>
    rw [ih idle waiting used, runOps_endStage _ (microOp_send_stageEnded (more answer late) failed)]
    rfl
  | aborted _ _ => cases waiting
  | @waits a f ops s q _ =>
    cases waiting
    have all : s.answers ++ late = late := by rw [used]; rfl
    rw [all, ← idle]
    exact (runs_runOps false (.send a f :: ops) { s with answers := late } q).todo_irrelevant _
  | @refused a src ops s q none =>
    rw [State.raise_seq] at waiting
    cases waiting

theorem planOf_withAnswers (s : State) (as : List TxEvent) (i : Instr) :
    planOf { s with answers := as } i = planOf s i := by
  cases i <;> rfl

/-- A command keeps the configuration and what waits at the command port. -/
theorem exec_ports {i : Instr} {s t : State} (h : exec i s = .next t) : PortsKept s t := by
  obtain ⟨-, -, ⟨-, rfl⟩ | ⟨-, ⟨-, rfl⟩ | ⟨ops, reply, -, rfl⟩⟩⟩ := exec_eq_next h
  · exact ⟨rfl, rfl⟩
  · exact ⟨rfl, rfl⟩
  · have ports := runOps_ports false ops { s with rsp := none } ⟨[], 0#8, none, reply⟩
    exact ⟨ports.cfg, ports.host⟩

/-- Settles O20: a command that waits with no answer left is a run that does, and the next step takes the delay and
goes on with it. -/
theorem lateAnswersChangeNothing : Obligations.LateAnswersChangeNothing := by
  intro i s t q early late ready noReset hexec waiting used
  have ports := exec_ports hexec
  have next : step { t with answers := .delay :: late } =
      .next (runOps false q.todo { t with seq := none, answers := late } q) :=
    step_busy (s := { t with answers := .delay :: late }) (ports.cfg ▸ ready.1.1) waiting
      (fun rest h => noReset rest (ports.host ▸ h))
  obtain ⟨-, idle, ⟨-, rfl⟩ | ⟨met, ⟨-, rfl⟩ | ⟨ops, reply, plan, rfl⟩⟩⟩ := exec_eq_next hexec
  · cases waiting
  · cases waiting
  · rw [planOf_withAnswers] at plan
    have whole : exec i { s with answers := early ++ late } =
        .next (State.launch ops reply { s with answers := early ++ late, rsp := none }) :=
      exec_of_plan (s := { s with answers := early ++ late }) ready met ((planOf_withAnswers s _ i).trans plan)
    rw [next, whole]
    exact congrArg _ ((runs_launch ops reply { s with answers := early, rsp := none }).goes_on idle waiting used late)

end Sys2Proof.Machine
end

section
/-! What a command that ends reports and leaves: the first failed frame (spec/30_encoding.md R89, spec/60_exceptions.md
R233), no effect of an early error (spec/30_encoding.md R95), and the writers of spec/10_state.md R36. -/

namespace Sys2Proof.Machine

/-! ## The frames of a run -/

/-- A run logs its frames, one for each answer, and no more than it has sends. -/
theorem Runs.logs {skipping : Bool} {ops : List MicroOp} {s t : State} {q : Sequencer}
    (h : Runs skipping ops s q t) : ∃ es, Logged s t es ∧ es.length ≤ sends ops := by
  induction h with
  | done => exact ⟨[], (List.append_nil _).symm, Nat.zero_le _⟩
  | skipped _ _ ih | nextStage _ ih =>
    obtain ⟨es, log, len⟩ := ih
    exact ⟨es, log, len.trans (sends_le_cons _ _)⟩
  | silent _ _ same _ _ ih =>
    obtain ⟨es, log, len⟩ := ih
    exact ⟨es, by rw [Logged, log, same], len.trans (sends_le_cons _ _)⟩
  | accepted _ _ _ ih | recorded _ _ _ ih | stageEnded _ _ _ ih =>
    obtain ⟨es, log, len⟩ := ih
    rw [Logged, State.sent_txlog, List.append_assoc] at log
    exact ⟨_ :: es, log, by rw [sends_cons_send]; exact Nat.succ_le_succ len⟩
  | aborted _ _ => exact ⟨[_], rfl, by rw [sends_cons_send]; exact Nat.le_add_left 1 _⟩
  | waits _ | refused _ => exact ⟨[], (List.append_nil _).symm, Nat.zero_le _⟩

/-- The ordinal of the first failed frame of frames accepted or not. -/
def firstFailure (oks : List Bool) : Option Nat := oks.findIdx? (! ·)

theorem firstFailure_append (oks : List Bool) (ok : Bool) :
    firstFailure (oks ++ [ok]) = (firstFailure oks).or (if ok then none else some oks.length) := by
  rw [firstFailure, firstFailure, List.findIdx?_append, List.findIdx?_singleton]
  cases ok <;> simp

/-- The sequencer after the answer to a frame whose failure does not end the command. -/
def Sequencer.answered (q : Sequencer) (ok : Bool) : Sequencer := if ok then q.counted else q.noted.counted

/-- The counters of the sequencer say how many frames were answered and which failed first. -/
structure Tracks (q : Sequencer) (oks : List Bool) : Prop where
  fcnt      : q.fcnt = BitVec.ofNat 8 oks.length
  firstFail : q.firstFail = (firstFailure oks).map (BitVec.ofNat 8)

theorem tracks_fresh (reply : Response) : Tracks ⟨[], 0#8, none, reply⟩ [] := ⟨rfl, rfl⟩

theorem Tracks.answered {q : Sequencer} {oks : List Bool} (h : Tracks q oks) (ok : Bool) :
    Tracks (q.answered ok) (oks ++ [ok]) := by
  have fcnt : (q.answered ok).fcnt = q.fcnt + 1#8 := by cases ok <;> rfl
  refine ⟨?_, ?_⟩
  · rw [fcnt, h.fcnt, List.length_append, BitVec.ofNat_add]
    rfl
  · rw [firstFailure_append]
    cases ok with
    | true => exact h.firstFail.trans (by simp)
    | false =>
      show q.firstFail.or (some q.fcnt) = _
      rw [h.firstFail, h.fcnt]
      cases firstFailure oks <;> rfl

/-- The response names the first failed frame of the command, if a frame failed. -/
def Reports (r : Response) (oks : List Bool) : Prop :=
  match firstFailure oks with
  | none => r.status ≠ .ioError
  | some k => r = Response.error .ioError (BitVec.ofNat 8 k)

/-- A list of steps in which a failed send always ends the command, so none has failed before; or none does, and no
cache write is refused (spec/44_power_lifecycle.md R202, R204). -/
def OneFailureMode (c : Cfg) (q : Sequencer) (ops : List MicroOp) : Prop :=
  (q.firstFail = none ∧ ∀ a f, .send a f ∈ ops → f = .abort) ∨
    ((∀ a, .send a .abort ∉ ops) ∧ ∀ a src, .write a src ∈ ops → a.toNat < c.n)

/-- The cache write of a cell that exists is never refused. -/
theorem write_not_refused {s : State} {a : Addr} (ha : a.toNat < s.cfg.n) (src : Source) :
    (src.eval s a).bind (s.memWrite a) ≠ none := by
  have read : ∃ v, s.memRead a = some v := by
    by_cases h : a = s.cfg.rst
    · exact ⟨_, h ▸ s.memRead_rst⟩
    · exact ⟨_, State.memRead_cell h ha⟩
  obtain ⟨v, hv⟩ := read
  cases src <;> simp [Source.eval, hv, State.memWrite_cell _ ha]

theorem microOp_cfg {op : MicroOp} {s t : State} {q : Sequencer} (hl : (microOp op s q).Leaves t) : t.cfg = s.cfg := by
  rcases microOp_leaves hl with rfl | rfl | ⟨_, rfl⟩ | rfl | ⟨_, _, _, rfl⟩ | ⟨_, _, _, rfl⟩ | ⟨_, rfl⟩ |
    ⟨_, rfl⟩ <;> rfl

theorem OneFailureMode.tail {c : Cfg} {q q' : Sequencer} {op : MicroOp} {ops : List MicroOp}
    (h : OneFailureMode c q (op :: ops)) (same : q.firstFail = none → q'.firstFail = none) :
    OneFailureMode c q' ops := by
  obtain ⟨hq, hs⟩ | ⟨hs, hw⟩ := h
  · exact .inl ⟨same hq, fun a f hm => hs a f (.tail _ hm)⟩
  · exact .inr ⟨fun a hm => hs a (.tail _ hm), fun a src hm => hw a src (.tail _ hm)⟩

theorem OneFailureMode.of_not_abort {c : Cfg} {q q' : Sequencer} {a : Addr} {f : OnFail} {ops : List MicroOp}
    (h : OneFailureMode c q (.send a f :: ops)) (hf : f ≠ .abort) : OneFailureMode c q' ops := by
  obtain ⟨-, hs⟩ | ⟨hs, hw⟩ := h
  · exact absurd (hs a f (.head _)) hf
  · exact .inr ⟨fun a hm => hs a (.tail _ hm), fun a src hm => hw a src (.tail _ hm)⟩

theorem OneFailureMode.none_failed {c : Cfg} {q : Sequencer} {a : Addr} {ops : List MicroOp}
    (h : OneFailureMode c q (.send a .abort :: ops)) : q.firstFail = none := by
  obtain ⟨hq, -⟩ | ⟨hs, -⟩ := h
  · exact hq
  · exact absurd (.head _) (hs a)

/-- A run that ends reports the first failed frame. -/
theorem Runs.reports {skipping : Bool} {ops : List MicroOp} {s t : State} {q : Sequencer} {oks : List Bool}
    {r : Response} (h : Runs skipping ops s q t) (tracks : Tracks q oks) (mode : OneFailureMode s.cfg q ops)
    (reply : q.reply.status = .ok) (ended : t.seq = none) (rsp : t.rsp = some r) :
    ∃ es, Logged s t es ∧ Reports r (oks ++ es.map (·.ok)) := by
  induction h generalizing oks with
  | @done skipping s q =>
    cases rsp
    refine ⟨[], (List.append_nil _).symm, ?_⟩
    rw [List.map_nil, List.append_nil, Reports, Sequencer.result, tracks.firstFail]
    cases firstFailure oks with
    | none => simp [reply]
    | some k => rfl
  | skipped _ _ ih | nextStage _ ih => exact ih tracks (mode.tail id) reply ended rsp
  | silent _ goes log _ _ ih =>
    have hcfg := microOp_cfg (by rw [goes]; rfl)
    obtain ⟨es, hlog, hrep⟩ := ih tracks (hcfg ▸ mode.tail id) reply ended rsp
    exact ⟨es, by rw [Logged, hlog, log], hrep⟩
  | accepted _ _ _ ih =>
    obtain ⟨es, hlog, hrep⟩ := ih (tracks.answered true) (mode.tail id) reply ended rsp
    rw [List.append_assoc] at hrep
    rw [Logged, State.sent_txlog, List.append_assoc] at hlog
    exact ⟨_, hlog, hrep⟩
  | recorded _ _ _ ih | stageEnded _ _ _ ih =>
    obtain ⟨es, hlog, hrep⟩ := ih (tracks.answered false) (mode.of_not_abort nofun) reply ended rsp
    rw [List.append_assoc] at hrep
    rw [Logged, State.sent_txlog, List.append_assoc] at hlog
    exact ⟨_, hlog, hrep⟩
  | aborted _ _ =>
    cases rsp
    refine ⟨[_], rfl, ?_⟩
    have before := mode.none_failed
    rw [tracks.firstFail, Option.map_eq_none_iff] at before
    rw [Reports, List.map_singleton, firstFailure_append, before, tracks.fcnt]
    rfl
  | waits _ => cases ended
  | refused none =>
    cases rsp
    refine ⟨[], (List.append_nil _).symm, ?_⟩
    rw [List.map_nil, List.append_nil, Reports]
    obtain ⟨hq, -⟩ | ⟨-, hw⟩ := mode
    · rw [tracks.firstFail, Option.map_eq_none_iff] at hq
      rw [hq]
      exact nofun
    · exact absurd none (write_not_refused (hw _ _ (.head _)) _)

theorem oneFailureMode_of_plan {s : State} (wf : s.cfg.wf = true) {i : Instr} {ops : List MicroOp} {reply : Response}
    (plan : planOf s i = some (ops, reply)) : OneFailureMode s.cfg ⟨[], 0#8, none, reply⟩ ops := by
  have may := mayRun_of_plan wf plan
  by_cases h : i = .resume
  · subst h
    refine .inr ⟨fun a hm => (may _ hm).mp rfl rfl, fun a src hm => ?_⟩
    obtain ⟨-, ⟨v, hv⟩ | ha⟩ := may _ hm
    · cases hv
    · exact ha
  · exact .inl ⟨rfl, fun a f hm => (may _ hm).mpr h⟩

/-- Settles O25: the run of a command reports its first failed frame, and its at most 130 frames have ordinals that
fit the byte; a command without a run sends nothing. -/
theorem ioErrorNamesFirstFailedFrame : Obligations.IoErrorNamesFirstFailedFrame := by
  intro i s t r ready ends
  have nothing (h : r.status ≠ .ioError) (ht : t.txlog = s.txlog) : ∃ es, Logged s t es ∧
      (r.status = .ioError → r.data = 0#32 ∧ (∃ e, es[r.aux.toNat]? = some e ∧ e.ok = false) ∧
        ∀ k < r.aux.toNat, ∀ e, es[k]? = some e → e.ok = true) ∧
      (r.status ≠ .ioError → ∀ e ∈ es, e.ok = true) :=
    ⟨[], by rw [Logged, ht, List.append_nil], fun h' => absurd h' h, fun _ _ he => nomatch he⟩
  obtain ⟨rfl, rfl⟩ | ⟨-, rfl, rfl⟩ | ⟨-, ops, reply, plan, runs⟩ := ends_cases ends
  · exact nothing nofun rfl
  · exact nothing (answerOf_ne_ioError s i) rfl
  obtain ⟨-, ended, rsp⟩ := ends
  obtain ⟨es, log, reports⟩ := runs.reports (tracks_fresh reply) (oneFailureMode_of_plan ready.1.1 plan)
    (reply_of_plan plan) ended rsp
  obtain ⟨es', log', atMost⟩ := runs.logs
  obtain rfl : es' = es := List.append_cancel_left (log'.symm.trans log)
  have few : es'.length ≤ 130 := atMost.trans (sends_le_of_plan ready.1.1 plan)
  refine ⟨es', log, ?_⟩
  rw [List.nil_append, Reports, firstFailure, List.findIdx?_map] at reports
  cases first : es'.findIdx? (! ·.ok) with
  | none =>
    simp only [Function.comp_def, first] at reports
    refine ⟨fun h => absurd h reports, fun _ e he => ?_⟩
    simpa using List.findIdx?_eq_none_iff.mp first e he
  | some k =>
    simp only [Function.comp_def, first] at reports
    obtain ⟨hk, failed, before⟩ := List.findIdx?_eq_some_iff_getElem.mp first
    have aux : r.aux.toNat = k := by
      rw [reports]
      exact Nat.mod_eq_of_lt (by omega)
    rw [aux, reports]
    refine ⟨fun _ => ⟨rfl, ⟨_, List.getElem?_eq_getElem hk, by simpa using failed⟩, fun j hj e he => ?_⟩,
      fun h => absurd rfl h⟩
    obtain ⟨hj', rfl⟩ := List.getElem?_eq_some_iff.mp he
    simpa using before j hj

/-! ## Early errors -/

/-- A run whose cache writes all have a cell ends with `Ok` or `IoError`. -/
theorem Runs.status {skipping : Bool} {ops : List MicroOp} {s t : State} {q : Sequencer} {r : Response}
    (h : Runs skipping ops s q t) (writes : ∀ a src, .write a src ∈ ops → a.toNat < s.cfg.n)
    (reply : q.reply.status = .ok) (ended : t.seq = none) (rsp : t.rsp = some r) :
    r.status = .ok ∨ r.status = .ioError := by
  have later {op : MicroOp} {ops : List MicroOp} {n : Nat} (h : ∀ a src, .write a src ∈ op :: ops → a.toNat < n) :
      ∀ a src, .write a src ∈ ops → a.toNat < n := fun a src hm => h a src (.tail _ hm)
  induction h with
  | @done _ _ q =>
    cases rsp
    rw [Sequencer.result]
    cases q.firstFail with
    | none => exact .inl reply
    | some k => exact .inr rfl
  | skipped _ _ ih | nextStage _ ih => exact ih (later writes) reply ended rsp
  | silent _ goes _ _ _ ih =>
    have hcfg := microOp_cfg (by rw [goes]; rfl)
    exact ih (hcfg ▸ later writes) reply ended rsp
  | accepted _ _ _ ih | recorded _ _ _ ih | stageEnded _ _ _ ih => exact ih (later writes) reply ended rsp
  | aborted _ _ => cases rsp; exact .inr rfl
  | waits _ => cases ended
  | refused none => exact absurd none (write_not_refused (writes _ _ (.head _)) _)

/-- A `SETREG` of an address with no cell is refused by its first step. -/
theorem launch_write_refused {s : State} {a : Addr} (h : s.cfg.n ≤ a.toNat) (src : Source) (ops : List MicroOp)
    (reply : Response) : State.launch (.write a src :: ops) reply s = s.raise .outOfRange (a.setWidth 8) := by
  have none : (src.eval s a).bind (s.memWrite a) = none :=
    Option.bind_eq_none_iff.mpr fun v _ => State.memWrite_outside v h
  exact runOps_raise _ (microOp_write_refused _ none)

/-- Settles O24: an error of a run that is no `IoError` is the refusal of a `SETREG` before anything changed. -/
theorem earlyErrorsChangeNothing : Obligations.EarlyErrorsChangeNothing := by
  intro i s t r ready ends notOk notIo
  obtain ⟨-, rfl⟩ | ⟨-, -, rfl⟩ | ⟨met, ops, reply, plan, runs⟩ := ends_cases ends
  · rfl
  · rfl
  obtain ⟨hexec, ended, rsp⟩ := ends
  have may := mayRun_of_plan ready.1.1 plan
  by_cases writes : ∀ a src, .write a src ∈ ops → a.toNat < s.cfg.n
  · rcases runs.status writes (reply_of_plan plan) ended rsp with h | h
    · exact absurd h notOk
    · exact absurd h notIo
  · simp only [not_forall, Nat.not_lt] at writes
    obtain ⟨a, src, hm, outside⟩ := writes
    obtain ⟨-, ⟨v, rfl⟩ | inside⟩ := may _ hm
    · rw [exec_of_plan ready met rfl, program, launch_write_refused (s := { s with rsp := none }) outside] at hexec
      cases hexec
      cases rsp
      exact State.respond_of_idle (s := { s with rsp := none }) ready.2 _
    · exact absurd inside (Nat.not_lt.mpr outside)

/-! ## The writers of the state -/

theorem sent_of_send_leaves {a : Addr} {f : OnFail} {s t : State} {q : Sequencer}
    (hl : (microOp (.send a f) s q).Leaves t) : ∃ ok rest, t = s.sent a ok rest := by
  by_cases h : ∃ err acc rest, s.answers = .answer err acc :: rest
  · obtain ⟨err, acc, rest, h⟩ := h
    refine ⟨txOk err acc, rest, ?_⟩
    rw [microOp_send_answer h] at hl
    cases hok : txOk err acc <;> rw [hok] at hl <;> cases f <;> exact hl.symm
  · rw [microOp_send_waits (by simpa using h)] at hl
    exact hl.elim

/-- What one step writes of the control state and of the cells. -/
theorem microOp_writes {op : MicroOp} {s t : State} {q : Sequencer} (hl : (microOp op s q).Leaves t) :
    ((∀ b, op ≠ .setAttached b) → t.attached = s.attached) ∧
    (op ≠ .seed → (∀ l, op ≠ .recordBias l) → t.bias = s.bias) ∧
    (op ≠ .seed → op ≠ .savePending → t.pending = s.pending) ∧
    (op ≠ .seed → (∀ clk, op ≠ .setSysclk clk) → t.sysclk = s.sysclk) ∧
    ∀ a, op ≠ .seed → (∀ src, op ≠ .write a src) → t.xAt a = s.xAt a := by
  cases op with
  | write b src =>
    rcases write_refused_or s b src with hnone | ⟨v, hv, hb⟩
    · rw [microOp_write_refused q hnone] at hl
      cases hl
      exact ⟨fun _ => rfl, fun _ _ => rfl, fun _ _ => rfl, fun _ _ => rfl, fun _ _ _ => rfl⟩
    · rw [microOp_write_of_eval q hv hb] at hl
      cases hl
      refine ⟨fun _ => rfl, fun _ _ => rfl, fun _ _ => rfl, fun _ _ => rfl, fun a _ h => ?_⟩
      exact s.xAt_withCell_of_ne v fun hab => h src (hab ▸ rfl)
  | send b f =>
    obtain ⟨ok, rest, rfl⟩ := sent_of_send_leaves hl
    exact ⟨fun _ => rfl, fun _ _ => rfl, fun _ _ => rfl, fun _ _ => rfl, fun _ _ _ => rfl⟩
  | seed | setSysclk _ | savePending | stage | recordBias _ | setAttached _ => cases hl; simp [State.xAt]

section
variable {skipping : Bool} {ops : List MicroOp} {s t : State} {q : Sequencer} (h : Runs skipping ops s q t)
include h

theorem Runs.attached_kept (hops : ∀ b, .setAttached b ∉ ops) : t.attached = s.attached :=
  h.keeps (P := fun u => u.attached = s.attached)
    (fun _ hm _ _ _ hl hu => ((microOp_writes hl).1 fun b e => hops b (e ▸ hm)).trans hu) (fun _ _ _ hu => hu) rfl

theorem Runs.bias_kept (seed : .seed ∉ ops) (hops : ∀ l, .recordBias l ∉ ops) : t.bias = s.bias :=
  h.keeps (P := fun u => u.bias = s.bias)
    (fun _ hm _ _ _ hl hu => ((microOp_writes hl).2.1 (fun e => seed (e ▸ hm)) fun l e => hops l (e ▸ hm)).trans hu)
    (fun _ _ _ hu => hu) rfl

theorem Runs.pending_kept (seed : .seed ∉ ops) (hops : .savePending ∉ ops) : t.pending = s.pending :=
  h.keeps (P := fun u => u.pending = s.pending)
    (fun _ hm _ _ _ hl hu => ((microOp_writes hl).2.2.1 (fun e => seed (e ▸ hm)) fun e => hops (e ▸ hm)).trans hu)
    (fun _ _ _ hu => hu) rfl

theorem Runs.sysclk_kept (seed : .seed ∉ ops) (hops : ∀ clk, .setSysclk clk ∉ ops) : t.sysclk = s.sysclk :=
  h.keeps (P := fun u => u.sysclk = s.sysclk)
    (fun _ hm _ _ _ hl hu =>
      ((microOp_writes hl).2.2.2.1 (fun e => seed (e ▸ hm)) fun c e => hops c (e ▸ hm)).trans hu)
    (fun _ _ _ hu => hu) rfl

theorem Runs.xAt_kept {a : Addr} (seed : .seed ∉ ops) (hops : ∀ src, .write a src ∉ ops) : t.xAt a = s.xAt a :=
  h.keeps (P := fun u => u.xAt a = s.xAt a)
    (fun _ hm _ _ _ hl hu =>
      ((microOp_writes hl).2.2.2.2 a (fun e => seed (e ▸ hm)) fun c e => hops c (e ▸ hm)).trans hu)
    (fun _ _ _ hu => hu) rfl

end

theorem seeds_iff (i : Instr) : seeds i = true ↔ i = .detach ∨ ∃ clk, i = .attach clk := by
  cases i <;> simp [seeds]

/-- What a command leaves in place of the state: its response only, or what a run of its steps leaves. -/
theorem exec_cases {i : Instr} {s t : State} (h : exec i s = .next t) :
    (∃ r, t = s.respond r) ∨ ∃ ops reply, planOf s i = some (ops, reply) ∧
      Runs false ops { s with rsp := none } ⟨[], 0#8, none, reply⟩ t := by
  obtain ⟨-, -, ⟨-, rfl⟩ | ⟨-, ⟨-, rfl⟩ | ⟨ops, reply, plan, rfl⟩⟩⟩ := exec_eq_next h
  · exact .inl ⟨_, rfl⟩
  · exact .inl ⟨_, rfl⟩
  · exact .inr ⟨ops, reply, plan, runs_launch _ _ _⟩

/-- Settles O27: a change of a part of the control state needs a step that writes it. -/
theorem writersOfControlState : Obligations.WritersOfControlState := by
  intro i s t ready hexec
  obtain ⟨r, rfl⟩ | ⟨ops, reply, plan, runs⟩ := exec_cases hexec
  · exact ⟨fun h => absurd rfl h, fun h => absurd rfl h, fun h => absurd rfl h, fun h => absurd rfl h⟩
  have may := mayRun_of_plan ready.1.1 plan
  have seeding (hm : .seed ∈ ops) : i = .detach ∨ ∃ clk, i = .attach clk := (seeds_iff i).mp (may .seed hm)
  refine ⟨fun changed => ?_, fun changed => ?_, fun changed => ?_, fun changed => ?_⟩ <;> by_contra no
  · exact changed (runs.attached_kept fun b hm => no (may _ hm))
  · exact changed (runs.bias_kept (fun hm => no ((seeding hm).imp_right fun h => .inr (.inr (.inr h))))
      fun l hm => no (.inr (may (.recordBias l) hm)))
  · exact changed (runs.pending_kept (fun hm => no ((seeding hm).imp_right .inr))
      fun hm => no (.inr (.inl (may .savePending hm))))
  · exact changed (runs.sysclk_kept (fun hm => no ((seeding hm).imp_right .inr))
      fun clk hm => no (.inr (Or.symm (may (.setSysclk clk) hm))))

/-- Settles O28: a change of a cell needs a seed or a write of that cell. -/
theorem writersOfCells : Obligations.WritersOfCells := by
  intro i s t as a ready hexec cells notIn _
  obtain ⟨r, rfl⟩ | ⟨ops, reply, plan, runs⟩ := exec_cases hexec
  · rfl
  have may := mayRun_of_plan ready.1.1 plan
  refine runs.xAt_kept (fun hm => ?_) fun src hm => notIn ((may _ hm).1 as cells)
  rcases (seeds_iff i).mp (may .seed hm) with rfl | ⟨clk, rfl⟩ <;> cases cells

end Sys2Proof.Machine
end

section
/-! The shape of the lists of steps: after a seed, if there is one, a cache write is always followed by the send of its
cell, and a send without a write before it is never of `RST` (spec/40_cache_write_protocol.md R114,
spec/44_power_lifecycle.md R202). What the cache holds after a command, and why the cell of `RST` is not observable,
follow from it. -/

namespace Sys2Proof.Machine

/-- The step neither touches the cache nor sends. -/
def MicroOp.quiet : MicroOp → Bool
  | .setSysclk _ | .savePending | .stage | .recordBias _ | .setAttached _ => true
  | .seed | .write _ _ | .send _ _ => false

/-- A list of `Program`s, replayed cells other than `RST`, and steps that do neither. -/
inductive Programs (c : Cfg) : List MicroOp → Prop
  | done : Programs c []
  | program {a : Addr} {src : Source} {f : OnFail} {ops : List MicroOp} :
      Programs c ops → Programs c (.write a src :: .send a f :: ops)
  | replay {a : Addr} {f : OnFail} {ops : List MicroOp} (notRst : a ≠ c.rst) :
      Programs c ops → Programs c (.send a f :: ops)
  | quiet {op : MicroOp} {ops : List MicroOp} (isQuiet : op.quiet = true) : Programs c ops → Programs c (op :: ops)

theorem Programs.append {c : Cfg} {ops ops' : List MicroOp} (h : Programs c ops) (h' : Programs c ops') :
    Programs c (ops ++ ops') := by
  induction h with
  | done => exact h'
  | program _ ih => exact .program ih
  | replay notRst _ ih => exact .replay notRst ih
  | quiet isQuiet _ ih => exact .quiet isQuiet ih

theorem programs_program (c : Cfg) (a : Addr) (src : Source) (f : OnFail) : Programs c (program a src f) :=
  .program .done

theorem programs_biasStep (c : Cfg) (l : BiasLevel) (f : OnFail) : Programs c (biasStep c l f) := by
  have record (l : BiasLevel) : Programs c [.recordBias l] := .quiet rfl .done
  cases l with
  | prepare => exact record _
  | on | standby => exact (programs_program c _ _ f).append (record _)
  | off => exact ((programs_program c _ _ f).append (programs_program c _ _ f)).append (record _)

theorem programs_replay {c : Cfg} (wf : c.wf = true) : Programs c (replay c) := by
  have cells : ∀ as : List Addr, (∀ a ∈ as, a ≠ c.rst) → Programs c (as.map fun a => .send a .record) := by
    intro as
    induction as with
    | nil => exact fun _ => .done
    | cons a as ih => exact fun h => .replay (h a (.head _)) (ih fun b hb => h b (.tail _ hb))
  exact cells _ fun a ha => ((mem_replayAddrs wf a).mp ha).2

/-- Every command is a list of `Program`s, after the seed where it seeds. -/
theorem programs_of_plan {s : State} (wf : s.cfg.wf = true) {i : Instr} {ops : List MicroOp} {reply : Response}
    (plan : planOf s i = some (ops, reply)) :
    ∃ ops', Programs s.cfg ops' ∧ ops = if seeds i then .seed :: ops' else ops' := by
  have one (a : Addr) (src : Source) (f : OnFail) := programs_program s.cfg a src f
  cases i with
  | getreg _ | resolve _ _ _ | compose _ | getstat _ | getconf _ => cases plan
  | setfmt b =>
    obtain ⟨v, -, hv⟩ := Option.map_eq_some_iff.mp plan
    cases hv
    exact ⟨_, one _ _ _, rfl⟩
  | setrate strict clk rate =>
    obtain ⟨m, -, hm⟩ := Option.map_eq_some_iff.mp plan
    cases hm
    exact ⟨_, .quiet rfl (one _ _ _), rfl⟩
  | setreg _ _ | reset | setmute _ => cases plan; exact ⟨_, one _ _ _, rfl⟩
  | setbias l => cases plan; exact ⟨_, programs_biasStep _ _ _, rfl⟩
  | suspend =>
    cases plan
    exact ⟨_, .quiet rfl ((one _ _ _).append (programs_biasStep s.cfg .off .abort)), rfl⟩
  | resume =>
    cases plan
    exact ⟨_, ((programs_replay wf).append (.quiet rfl (programs_biasStep s.cfg .standby .endStage))).append
      (.quiet rfl (programs_biasStep s.cfg s.pending .endStage)), rfl⟩
  | detach => cases plan; exact ⟨_, .quiet rfl .done, rfl⟩
  | attach clk =>
    cases plan
    exact ⟨_, .quiet rfl (((((one _ _ _).append (one _ _ _)).append (one _ _ _)).append
      (programs_biasStep s.cfg .standby .abort)).append (.quiet rfl .done)), rfl⟩

/-! ## What the cache holds (spec/10_state.md R23) -/

/-- A run that ends got an answer to the send it begins with, if that was not skipped, and went on or ended there. -/
theorem Runs.send_inv {skipping : Bool} {a : Addr} {f : OnFail} {ops : List MicroOp} {s t : State} {q : Sequencer}
    (h : Runs skipping (.send a f :: ops) s q t) (ended : t.seq = none) :
    (skipping = true ∧ Runs true ops s q t) ∨
      ∃ ok rest, (∃ skipping' q', Runs skipping' ops (s.sent a ok rest) q' t) ∨
        ∃ aux, t = (s.sent a ok rest).raise .ioError aux := by
  cases h with
  | skipped _ h => exact .inl ⟨rfl, h⟩
  | silent notSend => cases notSend
  | accepted _ _ h => exact .inr ⟨_, _, .inl ⟨_, _, h⟩⟩
  | recorded _ _ h => exact .inr ⟨_, _, .inl ⟨_, _, h⟩⟩
  | stageEnded _ _ h => exact .inr ⟨_, _, .inl ⟨_, _, h⟩⟩
  | aborted _ _ => exact .inr ⟨_, _, .inr ⟨_, rfl⟩⟩
  | waits _ => cases ended

/-- The same for a `Program`, whose cache write may also be refused. -/
theorem Runs.program_inv {skipping : Bool} {a : Addr} {src : Source} {f : OnFail} {ops : List MicroOp} {s t : State}
    {q : Sequencer} (h : Runs skipping (.write a src :: .send a f :: ops) s q t) (ended : t.seq = none) :
    Runs true ops s q t ∨ t = s.raise .outOfRange (a.setWidth 8) ∨
      ∃ v ok rest, a.toNat < s.cfg.n ∧ ((∃ skipping' q', Runs skipping' ops (s.programmed a v ok rest) q' t) ∨
        ∃ aux, t = (s.programmed a v ok rest).raise .ioError aux) := by
  cases h with
  | skipped _ h =>
    cases h with
    | skipped _ h => exact .inl h
  | refused _ => exact .inr (.inl rfl)
  | silent _ goes _ _ h =>
    rcases write_refused_or s a src with hnone | ⟨v, hv, ha⟩
    · rw [microOp_write_refused q hnone] at goes
      cases goes
    · rw [microOp_write_of_eval q hv ha] at goes
      cases goes
      rcases h.send_inv ended with ⟨no, -⟩ | ⟨ok, rest, h⟩
      · cases no
      · exact .inr (.inr ⟨v, ok, rest, ha, h⟩)

/-- Each observable cell has in `x` the nine bits that the last frame in `es` for it carried, or the value it has in
`base` where `es` has no frame for it. -/
def HoldsSent (rst : Addr) (base : Addr → Value) (es : List TxEntry) (x : Addr → Value) : Prop :=
  ∀ a, a ≠ rst → (∀ e, lastFor a es = some e → e.frame = frameOf a (x a)) ∧ (lastFor a es = none → x a = base a)

/-- A frame for a cell that carries its value, the other cells left alone. -/
theorem HoldsSent.send {rst : Addr} {base x y : Addr → Value} {es : List TxEntry} (h : HoldsSent rst base es x)
    (a : Addr) (ok : Bool) (others : ∀ b, b ≠ a → y b = x b) :
    HoldsSent rst base (es ++ [⟨frameOf a (y a), ok⟩]) y := by
  intro b hb
  rw [lastFor_append_singleton, Frame.addr_frameOf]
  by_cases hab : a = b
  · subst hab
    rw [if_pos rfl]
    exact ⟨fun e he => by cases he; rfl, nofun⟩
  · rw [if_neg hab, others b (Ne.symm hab)]
    exact h b hb

theorem programmed_log {s : State} (shaped : Shaped s) {a : Addr} (ha : a.toNat < s.cfg.n) (v : Value) (ok : Bool)
    (rest : List TxEvent) : (s.programmed a v ok rest).txlog =
      s.txlog ++ [⟨frameOf a ((s.programmed a v ok rest).xAt a), ok⟩] := by
  rw [programmed_xAt shaped ha, if_pos rfl]
  exact (programmed_spec shaped ha v ok rest).log

/-- A quiet step leaves the cells. -/
theorem xAt_of_quiet {op : MicroOp} {s t : State} {q : Sequencer} (isQuiet : op.quiet = true)
    (hl : (microOp op s q).Leaves t) : t.xAt = s.xAt :=
  funext fun a => (microOp_writes hl).2.2.2.2 a (fun h => by rw [h] at isQuiet; cases isQuiet)
    fun src h => by rw [h] at isQuiet; cases isQuiet

/-- A run of `Program`s that ends keeps the cells in step with the frames. -/
theorem Programs.holdsSent {c : Cfg} {ops : List MicroOp} (hp : Programs c ops) {base : Addr → Value}
    {skipping : Bool} {s t : State} {q : Sequencer} {es : List TxEntry} (h : Runs skipping ops s q t)
    (ended : t.seq = none) (shaped : Shaped s) (holds : HoldsSent c.rst base es s.xAt) :
    ∃ es', Logged s t es' ∧ HoldsSent c.rst base (es ++ es') t.xAt := by
  induction hp generalizing skipping s q es with
  | done =>
    cases h
    exact ⟨[], (List.append_nil _).symm, by rw [List.append_nil]; exact holds⟩
  | @program a src f ops _ ih =>
    rcases h.program_inv ended with h | rfl | ⟨v, ok, rest, ha, hgo⟩
    · exact ih h shaped holds
    · exact ⟨[], (List.append_nil _).symm, by rw [List.append_nil]; exact holds⟩
    · have log := programmed_log shaped ha v ok rest
      have now := holds.send (y := (s.programmed a v ok rest).xAt) a ok fun b hb => by
        rw [programmed_xAt shaped ha, if_neg hb]
      obtain ⟨_, _, h⟩ | ⟨aux, rfl⟩ := hgo
      · obtain ⟨es', log', holds'⟩ := ih h (programmed_shaped shaped a v ok rest) now
        rw [Logged, log, List.append_assoc] at log'
        rw [List.append_assoc] at holds'
        exact ⟨_, log', holds'⟩
      · exact ⟨_, log, now⟩
  | @replay a f ops _ _ ih =>
    rcases h.send_inv ended with ⟨-, h⟩ | ⟨ok, rest, hgo⟩
    · exact ih h shaped holds
    · have now := holds.send (y := s.xAt) a ok fun _ _ => rfl
      obtain ⟨_, _, h⟩ | ⟨aux, rfl⟩ := hgo
      · have shaped' : Shaped (s.sent a ok rest) := by
          rw [shaped_iff] at shaped ⊢
          simpa [confSent] using shaped
        obtain ⟨es', log', holds'⟩ := ih h shaped' now
        rw [Logged, State.sent_txlog, List.append_assoc] at log'
        rw [List.append_assoc] at holds'
        exact ⟨_, log', holds'⟩
      · exact ⟨_, rfl, now⟩
  | @quiet op ops isQuiet _ ih =>
    cases h with
    | skipped _ h => exact ih h shaped holds
    | nextStage h => exact ih h shaped holds
    | silent _ goes log _ h =>
      have same := xAt_of_quiet isQuiet (by rw [goes]; rfl)
      have shaped' := microOp_shaped (by rw [goes]; rfl) shaped
      obtain ⟨es', log', holds'⟩ := ih h shaped' (same ▸ holds)
      exact ⟨es', by rw [Logged, log', log], holds'⟩
    | accepted _ _ _ | recorded _ _ _ | stageEnded _ _ _ | aborted _ _ | waits _ | refused _ => cases isQuiet

theorem not_seeds_of_no_plan {s : State} {i : Instr} (h : planOf s i = none) : seeds i = false := by
  cases i with
  | attach _ | detach => cases h
  | _ => rfl

/-- Settles O29: the run of a command keeps the cells in step with its frames, from the seeded cells where it seeds. -/
theorem cacheHoldsWhatWasAttempted : Obligations.CacheHoldsWhatWasAttempted := by
  intro i s t r es a ready ends log notRst
  have fromRun {u : State} {ops : List MicroOp} {q : Sequencer} (hp : Programs s.cfg ops)
      (runs : Runs false ops u q t) (shaped : Shaped u) (sameLog : u.txlog = s.txlog) :
      HoldsSent s.cfg.rst u.xAt es t.xAt := by
    obtain ⟨es', log', holds⟩ := hp.holdsSent (base := u.xAt) (es := []) runs ends.2.1 shaped
      fun _ _ => ⟨nofun, fun _ => rfl⟩
    rw [Logged, sameLog] at log'
    obtain rfl : es' = es := List.append_cancel_left (log'.symm.trans log)
    exact holds
  have nothing (ht : t.txlog = s.txlog) : es = [] := by simpa [Logged, ht] using log
  obtain ⟨rfl, ht⟩ | ⟨noPlan, -, ht⟩ | ⟨-, ops, reply, plan, runs⟩ := ends_cases ends
  · obtain rfl := nothing (by rw [ht])
    exact ⟨nofun, fun _ => by rw [ht, if_neg fun h => h.2 rfl]; rfl⟩
  · obtain rfl := nothing (by rw [ht])
    exact ⟨nofun, fun _ => by rw [ht, not_seeds_of_no_plan noPlan, if_neg fun h => nomatch h.1]; rfl⟩
  obtain ⟨ops, hp, rfl⟩ := programs_of_plan ready.1.1 plan
  cases hseeds : seeds i with
  | false =>
    rw [hseeds, if_neg Bool.false_ne_true] at runs
    rw [if_neg fun h => nomatch h.1]
    exact fromRun hp runs ready.1 rfl a notRst
  | true =>
    have status : r.status ≠ .badState := by
      have writes : ∀ a src, MicroOp.write a src ∈ (if seeds i then .seed :: ops else ops) → a.toNat < s.cfg.n := by
        intro a src hm
        obtain ⟨-, ⟨v, rfl⟩ | ha⟩ := mayRun_of_plan ready.1.1 plan _ hm
        · cases hseeds
        · exact ha
      rcases runs.status writes (reply_of_plan plan) ends.2.1 ends.2.2 with h | h <;> rw [h] <;> exact nofun
    rw [hseeds, if_pos rfl] at runs
    rw [if_pos ⟨rfl, status⟩]
    cases runs with
    | silent _ goes _ _ runs =>
      cases goes
      have seeded : Shaped (State.seed { s with rsp := none }) :=
        microOp_shaped (op := .seed) (q := ⟨[], 0#8, none, reply⟩) rfl ready.1
      exact fromRun hp runs seeded rfl a notRst

/-! ## The cell of `RST` is not observable (spec/10_state.md R22) -/

theorem State.memWrite_eq_none_iff {s : State} {a : Addr} {v : Value} :
    s.memWrite a v = none ↔ s.cfg.n ≤ a.toNat := by
  simp [State.memWrite]

/-- The cells differ at `RST` alone. -/
structure EqOffRst (c : Cfg) (x x' : List Value) : Prop where
  length : x'.length = x.length
  cells  : ∀ k, k ≠ c.rst.toNat → x'[k]? = x[k]?

theorem sameButRst_iff (s s' : State) :
    SameButRst s s' ↔ ∃ x', s' = { s with x := x' } ∧ EqOffRst s.cfg s.x x' := by
  constructor
  · rintro ⟨⟨hcfg, hhost⟩, ⟨hbias, hpending, hsysclk, hattached⟩, hconf, hseq, hlog, hrsp, hans, hcells, hlen⟩
    refine ⟨s'.x, ?_, hlen, hcells⟩
    rw [← hcfg, ← hhost, ← hbias, ← hpending, ← hsysclk, ← hattached, ← hconf, ← hseq, ← hlog, ← hrsp, ← hans]
  · rintro ⟨x', rfl, hlen, hcells⟩
    exact ⟨⟨rfl, rfl⟩, ⟨rfl, rfl, rfl, rfl⟩, rfl, rfl, rfl, rfl, rfl, hcells, hlen⟩

theorem EqOffRst.set {c : Cfg} {x x' : List Value} (h : EqOffRst c x x') (k : Nat) (v : Value) :
    EqOffRst c (x.set k v) (x'.set k v) where
  length := by rw [List.length_set, List.length_set, h.length]
  cells j hj := by rw [List.getElem?_set, List.getElem?_set, h.cells j hj, h.length]

section
variable {s : State} {x' : List Value} (h : EqOffRst s.cfg s.x x')
include h

theorem EqOffRst.xAt {a : Addr} (ha : a ≠ s.cfg.rst) : State.xAt { s with x := x' } a = s.xAt a := by
  simp only [State.xAt, List.getD_eq_getElem?_getD, h.cells _ fun e => ha (BitVec.eq_of_toNat_eq e)]

/-- A checked read does not see the cell of `RST`. -/
theorem EqOffRst.memRead (a : Addr) : State.memRead { s with x := x' } a = s.memRead a := by
  by_cases ha : a = s.cfg.rst
  · rw [ha]
    exact (State.memRead_rst { s with x := x' }).trans s.memRead_rst.symm
  · simp only [State.memRead, h.xAt ha]

theorem EqOffRst.eval (a : Addr) (src : Source) : src.eval { s with x := x' } a = src.eval s a := by
  cases src <;> simp only [Source.eval, h.memRead a]

theorem EqOffRst.write_refused_iff (a : Addr) (src : Source) :
    (src.eval { s with x := x' } a).bind (State.memWrite { s with x := x' } a) = none ↔
      (src.eval s a).bind (s.memWrite a) = none := by
  simp only [h.eval, Option.bind_eq_none_iff, State.memWrite_eq_none_iff]

/-- A written cell holds the same value on both sides, the one of `RST` too. -/
theorem EqOffRst.xAt_set (a : Addr) (v : Value) :
    State.xAt { s with x := x'.set a.toNat v } a = State.xAt { s with x := s.x.set a.toNat v } a := by
  simp only [State.xAt, List.getD_eq_getElem?_getD, List.getElem?_set, h.length, if_true]

end

/-- The result with other cells. -/
def OpResult.withX (x : List Value) : OpResult → OpResult
  | .go s q => .go { s with x := x } q
  | .skip s q => .skip { s with x := x } q
  | .wait => .wait
  | .raised s st aux => .raised { s with x := x } st aux

theorem microOp_quiet_withX {op : MicroOp} (isQuiet : op.quiet = true) (s : State) (q : Sequencer) (x : List Value) :
    microOp op { s with x := x } q = (microOp op s q).withX x := by
  cases op with
  | setSysclk _ | savePending | stage | recordBias _ | setAttached _ => rfl
  | seed | write _ _ | send _ _ => cases isQuiet

/-- A send does the same whatever the other cells are. -/
theorem microOp_send_withX {s : State} {a : Addr} {x : List Value} (same : State.xAt { s with x := x } a = s.xAt a)
    (f : OnFail) (q : Sequencer) : microOp (.send a f) { s with x := x } q = (microOp (.send a f) s q).withX x := by
  have sent (ok : Bool) (rest : List TxEvent) :
      State.sent { s with x := x } a ok rest = { s.sent a ok rest with x := x } := by
    simp only [State.sent, same]
  by_cases h : ∃ err acc rest, s.answers = .answer err acc :: rest
  · obtain ⟨err, acc, rest, h⟩ := h
    rw [microOp_send_answer h, microOp_send_answer (s := { s with x := x }) h, sent, sent]
    cases txOk err acc <;> cases f <;> rfl
  · have noAnswer : ∀ err acc rest, s.answers ≠ .answer err acc :: rest := by simpa using h
    rw [microOp_send_waits noAnswer, microOp_send_waits (s := { s with x := x }) noAnswer]
    rfl

/-- Runs of the list from states that differ in the cell of `RST` alone lead to such states. -/
def RunsAlike (c : Cfg) (ops : List MicroOp) : Prop :=
  ∀ (skipping : Bool) (s : State) (q : Sequencer) (x' : List Value), s.cfg = c → EqOffRst c s.x x' →
    ∃ x'', runOps skipping ops { s with x := x' } q = { runOps skipping ops s q with x := x'' } ∧
      EqOffRst c (runOps skipping ops s q).x x''

/-- A first step that does the same on both sides and leaves the cells. -/
theorem runOps_cons_alike {c : Cfg} {op : MicroOp} {ops : List MicroOp} (ih : RunsAlike c ops) {s : State}
    {q : Sequencer} {x' : List Value} (hcfg : s.cfg = c) (h : EqOffRst c s.x x')
    (same : microOp op { s with x := x' } q = (microOp op s q).withX x')
    (keeps : ∀ t, (microOp op s q).Leaves t → t.x = s.x) :
    ∃ x'', runOps false (op :: ops) { s with x := x' } q = { runOps false (op :: ops) s q with x := x'' } ∧
      EqOffRst c (runOps false (op :: ops) s q).x x'' := by
  have cfg : ∀ t, (microOp op s q).Leaves t → t.cfg = c := fun t hl => (microOp_cfg hl).trans hcfg
  cases he : microOp op s q <;> rw [he] at same keeps cfg
  case go t q' =>
    rw [runOps_go _ he, runOps_go _ same]
    exact ih false t q' x' (cfg t rfl) (keeps t rfl ▸ h)
  case skip t q' =>
    rw [runOps_endStage _ he, runOps_endStage _ same]
    exact ih true t q' x' (cfg t rfl) (keeps t rfl ▸ h)
  case wait =>
    rw [runOps_wait _ he, runOps_wait _ same]
    exact ⟨x', rfl, h⟩
  case raised t st aux =>
    rw [runOps_raise _ he, runOps_raise _ same]
    exact ⟨x', rfl, keeps t rfl ▸ h⟩

/-- Skipping looks at nothing. -/
theorem runOps_skip_alike {c : Cfg} {op : MicroOp} {ops : List MicroOp} (ih : RunsAlike c ops) (s : State)
    (q : Sequencer) {x' : List Value} (hcfg : s.cfg = c) (h : EqOffRst c s.x x') :
    ∃ x'', runOps true (op :: ops) { s with x := x' } q = { runOps true (op :: ops) s q with x := x'' } ∧
      EqOffRst c (runOps true (op :: ops) s q).x x'' := by
  by_cases hop : op = .stage
  · subst hop
    exact ih false s q x' hcfg h
  · rw [runOps_skip _ _ _ hop, runOps_skip _ _ _ hop]
    exact ih true s q x' hcfg h

theorem x_of_send_leaves {a : Addr} {f : OnFail} {s t : State} {q : Sequencer}
    (hl : (microOp (.send a f) s q).Leaves t) : t.x = s.x := by
  obtain ⟨ok, rest, rfl⟩ := sent_of_send_leaves hl
  rfl

theorem x_of_quiet_leaves {op : MicroOp} (isQuiet : op.quiet = true) {s t : State} {q : Sequencer}
    (hl : (microOp op s q).Leaves t) : t.x = s.x := by
  cases op with
  | setSysclk _ | savePending | stage | recordBias _ | setAttached _ => cases hl; rfl
  | seed | write _ _ | send _ _ => cases isQuiet

/-- A frame of `RST` is sent only after a write of its cell, which makes both sides equal. -/
theorem Programs.runsAlike {c : Cfg} {ops : List MicroOp} (hp : Programs c ops) : RunsAlike c ops := by
  induction hp with
  | done => exact fun _ s q x' _ h => ⟨x', rfl, h⟩
  | @program a src f ops _ ih =>
    rintro (_ | _) s q x' rfl h
    · rcases write_refused_or s a src with hnone | ⟨v, hv, ha⟩
      · have hnone' := (h.write_refused_iff a src).mpr hnone
        rw [runOps_raise _ (microOp_write_refused q hnone), runOps_raise _ (microOp_write_refused q hnone')]
        exact ⟨x', rfl, h⟩
      · rw [runOps_go _ (microOp_write_of_eval q hv ha), runOps_go _
          (microOp_write_of_eval (s := { s with x := x' }) q ((h.eval a src).trans hv) ha)]
        have same := h.xAt_set a v
        exact runOps_cons_alike ih (s := s.withCell a v) rfl (h.set a.toNat v)
          (microOp_send_withX (s := s.withCell a v) same f q) fun _ => x_of_send_leaves
    · have notStage : MicroOp.write a src ≠ .stage := nofun
      rw [runOps_skip _ _ _ notStage, runOps_skip _ _ _ notStage]
      exact runOps_skip_alike ih s q rfl h
  | @replay a f ops notRst _ ih =>
    rintro (_ | _) s q x' rfl h
    · exact runOps_cons_alike ih rfl h (microOp_send_withX (h.xAt notRst) f q) fun _ => x_of_send_leaves
    · exact runOps_skip_alike ih s q rfl h
  | @quiet op ops isQuiet _ ih =>
    rintro (_ | _) s q x' rfl h
    · exact runOps_cons_alike ih rfl h (microOp_quiet_withX isQuiet s q x') fun _ => x_of_quiet_leaves isQuiet
    · exact runOps_skip_alike ih s q rfl h

/-- The seed makes both sides equal. -/
theorem runsAlike_seed {c : Cfg} {ops : List MicroOp} (h : RunsAlike c ops) : RunsAlike c (.seed :: ops) := by
  rintro (_ | _) s q x' hcfg _
  · exact h false s.seed q s.cfg.defaults hcfg ⟨rfl, fun _ _ => rfl⟩
  · exact runOps_skip_alike h s q hcfg ‹_›

theorem runsAlike_of_plan {s : State} (wf : s.cfg.wf = true) {i : Instr} {ops : List MicroOp} {reply : Response}
    (plan : planOf s i = some (ops, reply)) : RunsAlike s.cfg ops := by
  obtain ⟨ops', hp, rfl⟩ := programs_of_plan wf plan
  cases seeds i with
  | true => exact runsAlike_seed hp.runsAlike
  | false => exact hp.runsAlike

theorem answerOf_alike {s : State} {x' : List Value} (h : EqOffRst s.cfg s.x x') (i : Instr) :
    answerOf { s with x := x' } i = answerOf s i := by
  cases i with
  | getreg a => simp only [answerOf, h.memRead a]
  | _ => rfl

/-- Settles O30: the check before the command and a command's answer do not see the cell, and its steps run alike. -/
theorem resetCellIsUnobservable : Obligations.ResetCellIsUnobservable := by
  intro i s s' t ready hsame hexec
  obtain ⟨x', rfl, h⟩ := (sameButRst_iff s s').mp hsame
  have ready' : Ready { s with x := x' } := by
    obtain ⟨wf, hx, hconf⟩ := (shaped_iff s).mp ready.1
    exact ⟨(shaped_iff _).mpr ⟨wf, h.length.trans hx, hconf⟩, ready.2⟩
  have plan' : planOf { s with x := x' } i = planOf s i := by cases i <;> rfl
  suffices alike : ∃ x'', exec i { s with x := x' } = .next { t with x := x'' } ∧ EqOffRst s.cfg t.x x'' by
    obtain ⟨x'', hexec', h'⟩ := alike
    exact ⟨_, hexec', (sameButRst_iff _ _).mpr ⟨x'', rfl, (exec_ports hexec).cfg ▸ h'⟩⟩
  cases met : (needOf i).met s.attached with
  | false =>
    cases hexec.symm.trans (exec_unmet ready met)
    exact ⟨x', exec_unmet ready' met, h⟩
  | true =>
    cases plan : planOf s i with
    | none =>
      cases hexec.symm.trans (exec_of_no_plan ready met plan)
      refine ⟨x', ?_, h⟩
      rw [exec_of_no_plan ready' met (plan'.trans plan), answerOf_alike h]
    | some p =>
      obtain ⟨ops, reply⟩ := p
      cases hexec.symm.trans (exec_of_plan ready met plan)
      rw [exec_of_plan ready' met (plan'.trans plan)]
      obtain ⟨x'', hrun, h'⟩ :=
        runsAlike_of_plan ready.1.1 plan false { s with rsp := none } ⟨[], 0#8, none, reply⟩ x' rfl h
      exact ⟨x'', congrArg _ hrun, h'⟩

end Sys2Proof.Machine
end

section
/-! Commands of one `Program` (spec/40_cache_write_protocol.md R118, R119, R122, spec/42_interface_format.md R165). -/

namespace Sys2Proof.Machine

theorem txOk_iff (err : Bool) (acc : BitVec 2) : txOk err acc = true ↔ err = false ∧ acc = 2#2 := by
  simp [txOk]

/-- The response of a command of one frame that reports nothing. -/
theorem okay_or_ioError (ok : Bool) :
    (if ok then Response.okay else ⟨.ioError, 0#8, 0#32⟩) = ⟨if ok then .ok else .ioError, 0#8, 0#32⟩ := by
  cases ok <;> rfl

/-- A command of one `Program` that reports nothing. -/
theorem ends_okay_of_program {i : Instr} {s : State} (ready : Ready s) (need : needOf i = .attached)
    (hatt : s.attached = true) {a : Addr} {src : Source} (plan : planOf s i = some (program a src .abort, Response.okay))
    {v : Value} (hv : src.eval s a = some v) (ha : a.toNat < s.cfg.n) {err : Bool} {acc : BitVec 2}
    {rest : List TxEvent} (hans : s.answers = .answer err acc :: rest) :
    ∃ t, Ends i s t ⟨if txOk err acc then .ok else .ioError, 0#8, 0#32⟩ ∧ Programmed s t a v (txOk err acc) ∧
      ControlKept s t ∧ t.answers = rest := by
  obtain ⟨t, ends, programmed⟩ := ends_of_program ready (met_of_attached need hatt) plan hv ha hans
  rw [okay_or_ioError] at ends
  exact ⟨t, ends, programmed⟩

/-- Settles O37: a refused write is `OutOfRange`; an accepted one is followed by one frame. -/
theorem setregProgramsCell : Obligations.SetregProgramsCell := by
  refine ⟨txOk_iff, fun s a v ready => ⟨fun hdet => exec_unmet ready (unmet_of_detached rfl hdet), fun hatt hn => ?_,
    fun err acc rest hatt hn hans => ?_⟩⟩
  · rw [exec_of_plan ready (met_of_attached rfl hatt) rfl, program,
      launch_write_refused (s := { s with rsp := none }) hn]
    exact congrArg _ (State.raise_of_idle (s := { s with rsp := none }) ready.2 _ _)
  · simp only [← txOk_iff, Bool.decide_eq_true]
    exact ends_okay_of_program (i := .setreg a v) (src := .const v) ready rfl hatt rfl rfl hn hans

/-- Settles O38: the write is done when the frame waits. -/
theorem cacheIsWrittenBeforeTheSend : Obligations.CacheIsWrittenBeforeTheSend := by
  intro s a v ready hatt hn hans
  have waits := runOps_program_waits (s := { s with rsp := none }) (src := .const v) (f := .abort)
    (q := ⟨[], 0#8, none, Response.okay⟩) [] rfl hn hans
  obtain ⟨-, hx, -⟩ := (shaped_iff s).mp ready.1
  have cell : (s.withCell a v).xAt a = v := by rw [State.xAt_withCell v (hx ▸ hn), if_pos rfl]
  refine ⟨_, (exec_of_plan ready (met_of_attached rfl hatt) rfl).trans (congrArg _ waits),
    congrArg (fun w => some (frameOf a w)) cell,
    fun _ => cell, ?_, rfl, rfl⟩
  exact (s.confAt_withCell a v a).trans (if_pos rfl)

/-- Settles O39: the reset frame is a `Program` of `RST`, which is no observable cell. -/
theorem resetSendsOneFrame : Obligations.ResetSendsOneFrame := by
  intro s ready
  refine ⟨fun hdet => exec_unmet ready (unmet_of_detached rfl hdet), fun err acc rest hatt hans => ?_⟩
  obtain ⟨t, ends, programmed, control, answers⟩ := ends_okay_of_program (i := .reset) (src := .const 0#16) ready
    rfl hatt rfl rfl (Cfg.wf_named ready.1.1).1 hans
  exact ⟨t, ends, programmed, fun a ha => (programmed.cells a ha).trans (if_neg ha), control, answers⟩

theorem eval_setBits {s : State} {a : Addr} (notRst : a ≠ s.cfg.rst) (ha : a.toNat < s.cfg.n) (m : Value) :
    Source.eval s a (.setBits m) = some (s.xAt a ||| m) := by
  rw [Source.eval, State.memRead_cell notRst ha, Option.map_some]

theorem eval_clearBits {s : State} {a : Addr} (notRst : a ≠ s.cfg.rst) (ha : a.toNat < s.cfg.n) (m : Value) :
    Source.eval s a (.clearBits m) = some (s.xAt a &&& ~~~m) := by
  rw [Source.eval, State.memRead_cell notRst ha, Option.map_some]

/-- Settles O41: the digital-path register has a readable cell, and the source sets or clears the mask in it. -/
theorem setmuteChangesOneBit : Obligations.SetmuteChangesOneBit := by
  intro s m ready
  refine ⟨fun hdet => exec_unmet ready (unmet_of_detached rfl hdet), fun err acc rest hatt hans => ?_⟩
  obtain ⟨-, -, -, -, -, hn, -⟩ := Cfg.wf_named ready.1.1
  obtain ⟨⟨-, -, -, -, notRst, -⟩, -⟩ := Cfg.wf_apart ready.1.1
  refine ends_okay_of_program ready rfl hatt rfl ?_ hn hans
  cases m with
  | true => exact eval_setBits notRst hn _
  | false => exact eval_clearBits notRst hn _

/-- Settles O45: the composer refuses the byte, or its value is programmed. -/
theorem setfmtProgramsValue : Obligations.SetfmtProgramsValue := by
  intro s b ready
  have met (hatt : s.attached = true) : (needOf (.setfmt b)).met s.attached = true := met_of_attached rfl hatt
  refine ⟨fun hdet => exec_unmet ready (unmet_of_detached rfl hdet), fun hatt hnone => ?_,
    fun v err acc rest hatt hsome hans => ?_⟩
  · rw [exec_of_no_plan ready (met hatt) (by rw [planOf, hnone]; rfl), answerOf, hnone]
    rfl
  · obtain ⟨-, -, -, hn, -⟩ := Cfg.wf_named ready.1.1
    exact ends_of_program ready (met hatt) (by rw [planOf, hsome]; rfl) rfl hn hans

end Sys2Proof.Machine
end

section
/-! Commands of several `Program`s, each of which ends the command when its frame fails (spec/40_cache_write_protocol.md
R115): what a chain of answered `Program`s leaves, and how a chain runs. -/

namespace Sys2Proof.Machine

/-! ## What a chain of answered `Program`s leaves -/

/-- The state after these cells were written and their frames answered, in order: address, value, accepted or not. -/
def State.wrote (s : State) : List (Addr × Value × Bool) → State
  | [] => s
  | (a, v, ok) :: ws => (s.programmed a v ok (s.answers.drop 1)).wrote ws

section
variable (s : State) (ws : List (Addr × Value × Bool))
@[simp] theorem State.wrote_cfg : (s.wrote ws).cfg = s.cfg := by
  induction ws generalizing s <;> simp_all [State.wrote]
@[simp] theorem State.wrote_bias : (s.wrote ws).bias = s.bias := by
  induction ws generalizing s <;> simp_all [State.wrote]
@[simp] theorem State.wrote_pending : (s.wrote ws).pending = s.pending := by
  induction ws generalizing s <;> simp_all [State.wrote]
@[simp] theorem State.wrote_sysclk : (s.wrote ws).sysclk = s.sysclk := by
  induction ws generalizing s <;> simp_all [State.wrote]
@[simp] theorem State.wrote_attached : (s.wrote ws).attached = s.attached := by
  induction ws generalizing s <;> simp_all [State.wrote]
@[simp] theorem State.wrote_host : (s.wrote ws).host = s.host := by
  induction ws generalizing s <;> simp_all [State.wrote]
@[simp] theorem State.wrote_answers : (s.wrote ws).answers = s.answers.drop ws.length := by
  induction ws generalizing s <;> simp_all [State.wrote, Nat.add_comm]
end

/-- The last entry for a key, once one more stands before the list. -/
theorem lookup_reverse_cons {β : Type} (a b : Addr) (w : β) (ws : List (Addr × β)) :
    ((a, w) :: ws).reverse.lookup b = (ws.reverse.lookup b).or (if b = a then some w else none) := by
  rw [List.reverse_cons, List.lookup_append, List.lookup_cons, List.lookup_nil]
  by_cases h : b = a
  · simp [h]
  · simp [h, show (b == a) = false by simpa using h]

/-- The log, the cells and the flags after a chain: each cell and flag as its last write and answer left it. -/
theorem State.wrote_spec {s : State} (shaped : Shaped s) {ws : List (Addr × Value × Bool)}
    (inRange : ∀ w ∈ ws, w.1.toNat < s.cfg.n) :
    Logged s (s.wrote ws) (ws.map fun w => ⟨frameOf w.1 w.2.1, w.2.2⟩) ∧
      (∀ b, (s.wrote ws).xAt b = (ws.reverse.lookup b).elim (s.xAt b) Prod.fst) ∧
      ∀ b, (s.wrote ws).confAt b = (ws.reverse.lookup b).elim (s.confAt b) Prod.snd := by
  induction ws generalizing s with
  | nil => exact ⟨(List.append_nil _).symm, fun _ => rfl, fun _ => rfl⟩
  | cons w ws ih =>
    obtain ⟨a, v, ok⟩ := w
    have ha : a.toNat < s.cfg.n := inRange _ (.head _)
    have one := programmed_spec shaped ha v ok (s.answers.drop 1)
    obtain ⟨log, cells, flags⟩ := ih (programmed_shaped shaped a v ok (s.answers.drop 1))
      fun w hw => inRange w (.tail _ hw)
    refine ⟨?_, fun b => ?_, fun b => ?_⟩
    · rw [Logged, State.wrote, log, one.log, List.append_assoc]
      rfl
    · rw [State.wrote, cells, lookup_reverse_cons, programmed_xAt shaped ha]
      cases ws.reverse.lookup b <;> by_cases h : b = a <;> simp [h]
    · rw [State.wrote, flags, lookup_reverse_cons, one.flags]
      cases ws.reverse.lookup b <;> by_cases h : b = a <;> simp [h]

/-- Two states with the same cells, flags, log and ports. -/
structure SameCache (s t : State) : Prop where
  ports : PortsKept s t
  log   : t.txlog = s.txlog
  x     : t.x = s.x
  conf  : t.conf = s.conf

theorem SameCache.xAt {s t : State} (h : SameCache s t) (a : Addr) : t.xAt a = s.xAt a :=
  congrArg (·.getD a.toNat 0#16) h.x

theorem SameCache.confAt {s t : State} (h : SameCache s t) (a : Addr) : t.confAt a = s.confAt a :=
  congrArg (·.getD a.toNat false) h.conf

/-- The same, from a state `s` with the cache before the writes to a state `t` with the cache after them. -/
theorem SameCache.wrote_spec {s u t : State} {ws : List (Addr × Value × Bool)} (after : SameCache (u.wrote ws) t)
    (before : SameCache s u) (shaped : Shaped s) (inRange : ∀ w ∈ ws, w.1.toNat < s.cfg.n) :
    PortsKept s t ∧ Logged s t (ws.map fun w => ⟨frameOf w.1 w.2.1, w.2.2⟩) ∧
      (∀ b, t.xAt b = (ws.reverse.lookup b).elim (s.xAt b) Prod.fst) ∧
      ∀ b, t.confAt b = (ws.reverse.lookup b).elim (s.confAt b) Prod.snd := by
  have shaped' : Shaped u := by
    rw [shaped_iff] at shaped ⊢
    rw [before.ports.cfg, before.x, before.conf]
    exact shaped
  obtain ⟨log, cells, flags⟩ := State.wrote_spec shaped' (before.ports.cfg.symm ▸ inRange)
  refine ⟨⟨?_, ?_⟩, ?_, fun b => ?_, fun b => ?_⟩
  · rw [after.ports.cfg, State.wrote_cfg, before.ports.cfg]
  · rw [after.ports.host, State.wrote_host, before.ports.host]
  · rw [Logged, after.log, log, before.log]
  · rw [after.xAt, cells, before.xAt]
  · rw [after.confAt, flags, before.confAt]

/-- The block ends in `t` what it began in `u` with the writes `ws`, at the bias level `level`. -/
structure ChainEnd (u t : State) (ws : List (Addr × Value × Bool)) (level : BiasLevel) : Prop where
  cache    : SameCache (u.wrote ws) t
  answers  : t.answers = u.answers.drop ws.length
  bias     : t.bias = level
  pending  : t.pending = u.pending
  sysclk   : t.sysclk = u.sysclk
  attached : t.attached = u.attached

/-- The entry of a key in a list that begins with one. -/
theorem lookup_cons_elim {β γ : Type} (a b : Addr) (w : β) (ws : List (Addr × β)) (d : γ) (f : β → γ) :
    (((a, w) :: ws).lookup b).elim d f = if b = a then f w else (ws.lookup b).elim d f := by
  rw [List.lookup_cons]
  by_cases h : b = a
  · simp [h]
  · simp [h, show (b == a) = false by simpa using h]

/-- A chain of one `Program`. -/
theorem ChainEnd.programmed {s u t : State} {a : Addr} {v : Value} {ok : Bool} {level : BiasLevel}
    (h : ChainEnd u t [(a, v, ok)] level) (shaped : Shaped s) (before : SameCache s u) (ha : a.toNat < s.cfg.n) :
    Programmed s t a v ok := by
  have inRange : ∀ w ∈ [(a, v, ok)], w.1.toNat < s.cfg.n := fun w hw => List.mem_singleton.mp hw ▸ ha
  obtain ⟨ports, log, cells, flags⟩ := h.cache.wrote_spec before shaped inRange
  exact ⟨ports, log, fun b _ => (cells b).trans (lookup_cons_elim _ _ _ _ _ _),
    fun b => (flags b).trans (lookup_cons_elim _ _ _ _ _ _)⟩

theorem drop_accepted (k : Nat) (e : TxEvent) (rest : List TxEvent) :
    (accepted k ++ e :: rest).drop (k + 1) = rest := by
  induction k with
  | zero => rfl
  | succ k ih => exact ih

/-! ## How a chain runs -/

/-- One `Program` of a chain: its address, its source, and the value the source gives. -/
abbrev Write := Addr × Source × Value

/-- The steps of a chain. -/
def chain (ps : List Write) : List MicroOp := ps.flatMap fun p => program p.1 p.2.1 .abort

/-- Every cell of the chain exists, and every source gives its value after the writes before it. -/
def Evaluates (s : State) : List Write → Prop
  | [] => True
  | (a, src, v) :: ps => a.toNat < s.cfg.n ∧ src.eval s a = some v ∧ Evaluates (s.withCell a v) ps

/-- The writes of a chain whose frames were all accepted. -/
def acceptedWrites (ps : List Write) : List (Addr × Value × Bool) := ps.map fun p => (p.1, p.2.2, true)

theorem evaluates_congr {s t : State} (hcfg : t.cfg = s.cfg) (hx : t.x = s.x) {ps : List Write}
    (h : Evaluates s ps) : Evaluates t ps := by
  induction ps generalizing s t with
  | nil => trivial
  | cons p ps ih =>
    obtain ⟨a, src, v⟩ := p
    obtain ⟨ha, hv, h⟩ := h
    exact ⟨hcfg ▸ ha, (Source.eval_congr hcfg hx).trans hv,
      ih (s := s.withCell a v) hcfg (by rw [State.withCell_x, State.withCell_x, hx]) h⟩

theorem txOk_accepted : txOk false 2#2 = true := rfl

/-- The sequencer after `k` accepted frames. -/
def Sequencer.countedBy (q : Sequencer) (k : Nat) : Sequencer := { q with fcnt := q.fcnt + BitVec.ofNat 8 k }

theorem Sequencer.counted_countedBy (q : Sequencer) (k : Nat) : q.counted.countedBy k = q.countedBy (k + 1) := by
  simp only [Sequencer.countedBy, Sequencer.counted, BitVec.ofNat_add, BitVec.add_assoc, BitVec.add_comm (1#8)]

/-- A chain whose first frame is accepted goes on to the rest of it. -/
theorem runOps_chain_cons_accepted {a : Addr} {src : Source} {v : Value} (ps : List Write) (ops : List MicroOp)
    {s : State} {q : Sequencer} {rest : List TxEvent} (hv : src.eval s a = some v) (ha : a.toNat < s.cfg.n)
    (answers : s.answers = .answer false 2#2 :: rest) :
    runOps false (chain ((a, src, v) :: ps) ++ ops) s q =
      runOps false (chain ps ++ ops) (s.programmed a v true (s.answers.drop 1)) q.counted := by
  have first : s.answers = .answer false 2#2 :: s.answers.drop 1 := by rw [answers]; rfl
  exact (runOps_program (f := .abort) (q := q) (chain ps ++ ops) hv ha first).trans (if_pos txOk_accepted)

/-- A chain whose frames are all accepted goes on to the steps after it. -/
theorem runOps_chain_accepted {ps : List Write} (ops : List MicroOp) {s : State} {q : Sequencer}
    {rest : List TxEvent} (evaluates : Evaluates s ps) (answers : s.answers = accepted ps.length ++ rest) :
    runOps false (chain ps ++ ops) s q = runOps false ops (s.wrote (acceptedWrites ps)) (q.countedBy ps.length) := by
  induction ps generalizing s q with
  | nil => simp [chain, acceptedWrites, State.wrote, Sequencer.countedBy]
  | cons p ps ih =>
    obtain ⟨a, src, v⟩ := p
    obtain ⟨ha, hv, later⟩ := evaluates
    have later' : Evaluates (s.programmed a v true (s.answers.drop 1)) ps :=
      evaluates_congr (s := s.withCell a v) (t := s.programmed a v true (s.answers.drop 1)) rfl rfl later
    have more : (s.answers.drop 1) = accepted ps.length ++ rest := by rw [answers]; rfl
    rw [runOps_chain_cons_accepted ps ops hv ha (answers.trans rfl), ih later' more, Sequencer.counted_countedBy]
    rfl

/-- A chain of which the frame with ordinal `k` fails ends the command there. -/
theorem runOps_chain_fails {ps : List Write} (ops : List MicroOp) {s : State} {q : Sequencer} {k : Nat} {p : Write}
    {err : Bool} {acc : BitVec 2} {rest : List TxEvent} (evaluates : Evaluates s ps) (at_k : ps[k]? = some p)
    (answers : s.answers = accepted k ++ .answer err acc :: rest) (failed : txOk err acc = false) :
    runOps false (chain ps ++ ops) s q =
      (s.wrote (acceptedWrites (ps.take k) ++ [(p.1, p.2.2, false)])).raise .ioError (q.fcnt + BitVec.ofNat 8 k) := by
  induction ps generalizing s q k with
  | nil => cases at_k
  | cons p' ps ih =>
    obtain ⟨a, src, v⟩ := p'
    obtain ⟨ha, hv, later⟩ := evaluates
    cases k with
    | zero =>
      cases at_k
      have first : s.answers = .answer err acc :: s.answers.drop 1 := by rw [answers]; rfl
      have one := runOps_program (f := .abort) (q := q) (chain ps ++ ops) hv ha first
      rw [failed, if_neg Bool.false_ne_true] at one
      rw [BitVec.add_zero]
      exact one
    | succ k =>
      have later' : Evaluates (s.programmed a v true (s.answers.drop 1)) ps :=
        evaluates_congr (s := s.withCell a v) (t := s.programmed a v true (s.answers.drop 1)) rfl rfl later
      have more : s.answers.drop 1 = accepted k ++ .answer err acc :: rest := by rw [answers]; rfl
      have ordinal : q.counted.fcnt + BitVec.ofNat 8 k = q.fcnt + BitVec.ofNat 8 (k + 1) := by
        rw [Sequencer.counted_fcnt, BitVec.add_assoc, BitVec.add_comm 1#8, BitVec.ofNat_add]
      rw [runOps_chain_cons_accepted ps ops hv ha (answers.trans rfl), ih later' at_k more, ordinal]
      rfl

/-- An accepted frame extends a run of accepted frames. -/
theorem accepted_snoc {err : Bool} {acc : BitVec 2} (ok : txOk err acc = true) (k : Nat) (rest : List TxEvent) :
    accepted k ++ .answer err acc :: rest = accepted (k + 1) ++ rest := by
  obtain ⟨rfl, rfl⟩ := (txOk_iff err acc).mp ok
  rw [accepted, accepted, List.replicate_succ', List.append_assoc]
  rfl

section
variable {i : Instr} {s u : State} (ready : Ready s) (met : (needOf i).met s.attached = true) {ops post : List MicroOp}
  {reply : Response} (plan : planOf s i = some (ops, reply)) {ps : List Write}
  (begins : ∀ q, runOps false ops { s with rsp := none } q = runOps false (chain ps ++ post) u q)
  (evaluates : Evaluates u ps)
include ready met plan begins evaluates

/-- A command that begins with a chain, from the state `u` it reaches before it, all of whose frames are accepted. -/
theorem exec_chain_accepted {rest : List TxEvent} (answers : u.answers = accepted ps.length ++ rest) :
    exec i s = .next (runOps false post (u.wrote (acceptedWrites ps))
      (Sequencer.countedBy ⟨[], 0#8, none, reply⟩ ps.length)) := by
  rw [exec_of_plan ready met plan, State.launch, begins, runOps_chain_accepted post evaluates answers]

/-- The same command when the frame with ordinal `k` fails. -/
theorem exec_chain_fails {k : Nat} {p : Write} {err : Bool} {acc : BitVec 2} {rest : List TxEvent}
    (at_k : ps[k]? = some p) (answers : u.answers = accepted k ++ .answer err acc :: rest)
    (failed : txOk err acc = false) :
    ∃ t, Ends i s t ⟨.ioError, BitVec.ofNat 8 k, 0#32⟩ ∧
      ChainEnd u t (acceptedWrites (ps.take k) ++ [(p.1, p.2.2, false)]) u.bias := by
  refine ⟨_, ⟨?_, State.raise_seq _ _ _, State.raise_rsp _ _ _⟩, ⟨⟨⟨rfl, rfl⟩, rfl, rfl, rfl⟩, State.wrote_answers _ _,
    State.wrote_bias _ _, State.wrote_pending _ _, State.wrote_sysclk _ _, State.wrote_attached _ _⟩⟩
  rw [exec_of_plan ready met plan, State.launch, begins, runOps_chain_fails post evaluates at_k answers failed,
    BitVec.zero_add]

end

section
variable {i : Instr} {s u : State} (ready : Ready s) (met : (needOf i).met s.attached = true)
  {ops : List MicroOp} {reply : Response} (plan : planOf s i = some (ops, reply)) {ps : List Write} {p : Write}
  {err : Bool} {acc : BitVec 2} {rest : List TxEvent}
  (answers : u.answers = accepted ps.length ++ .answer err acc :: rest) (evaluates : Evaluates u (ps ++ [p]))
include ready met plan answers evaluates

/-- A command of a chain and then `post`, which ends at the bias level `level`, whose last frame is answered either
way. -/
theorem exec_chain_last {post : List MicroOp} {level : BiasLevel}
    (begins : ∀ q, runOps false ops { s with rsp := none } q = runOps false (chain (ps ++ [p]) ++ post) u q)
    (ends : ∀ v q, v.bias = u.bias →
      runOps false post v q = { v with bias := level, seq := none, rsp := some q.result }) :
    ∃ t, Ends i s t (if txOk err acc then reply else ⟨.ioError, BitVec.ofNat 8 ps.length, 0#32⟩) ∧
      ChainEnd u t (acceptedWrites ps ++ [(p.1, p.2.2, txOk err acc)]) (if txOk err acc then level else u.bias) := by
  cases ok : txOk err acc with
  | true =>
    have all : u.answers = accepted (ps ++ [p]).length ++ rest := by
      rw [answers, accepted_snoc ok, List.length_append]
      rfl
    have run := exec_chain_accepted ready met plan begins evaluates all
    rw [ends _ _ (State.wrote_bias _ _), acceptedWrites, List.map_append] at run
    exact ⟨_, ⟨run, rfl, rfl⟩, ⟨⟨rfl, rfl⟩, rfl, rfl, rfl⟩, State.wrote_answers _ _, rfl, State.wrote_pending _ _,
      State.wrote_sysclk _ _, State.wrote_attached _ _⟩
  | false =>
    have at_k : (ps ++ [p])[ps.length]? = some p := by simp
    have run := exec_chain_fails ready met plan begins evaluates at_k answers ok
    rw [List.take_left] at run
    exact run

end

/-! ## SETRATE -/

/-- Settles O43: the clock is recorded, then the row's value is a chain of one `Program`. -/
theorem setrateProgramsRow : Obligations.SetrateProgramsRow := by
  intro s strict clk rate ready
  have met (hatt : s.attached = true) : (needOf (.setrate strict clk rate)).met s.attached = true :=
    met_of_attached rfl hatt
  refine ⟨fun hdet => exec_unmet ready (unmet_of_detached rfl hdet), fun hatt hnone => ?_,
    fun k r err acc rest hatt hsome hans => ?_⟩
  · rw [exec_of_no_plan ready (met hatt) (by rw [planOf, hnone]; rfl), answerOf, hnone]
    rfl
  · obtain ⟨-, -, -, -, hn, -⟩ := Cfg.wf_named ready.1.1
    obtain ⟨t, ends, chain⟩ := exec_chain_last ready (met hatt) (u := { s with rsp := none, sysclk := clk }) (ps := [])
      (p := (s.cfg.srate, .const (srValue r), srValue r)) (by rw [planOf, hsome]; rfl) hans ⟨hn, rfl, trivial⟩
      (post := []) (level := s.bias) (fun _ => rfl) (fun v q h => by rw [← show v.bias = s.bias from h]; rfl)
    refine ⟨t, ends, chain.programmed ready.1 ⟨⟨rfl, rfl⟩, rfl, rfl, rfl⟩ hn, chain.sysclk,
      chain.bias.trans (ite_self _), chain.pending, chain.attached, chain.answers.trans ?_⟩
    rw [hans]
    exact drop_accepted 0 _ rest

end Sys2Proof.Machine
end

section
/-! SETBIAS (spec/43_bias_sequencer.md R183, R185, R186) and SUSPEND (spec/44_power_lifecycle.md R201), as chains of
`Program`s. -/

namespace Sys2Proof.Machine

/-- A bias step at the end of a command records the level. -/
theorem runOps_recordBias (l : BiasLevel) (s : State) (q : Sequencer) :
    runOps false [.recordBias l] s q = { s with bias := l, seq := none, rsp := some q.result } := rfl

/-- A SETBIAS whose bias step has one `Program`, of the power register. -/
theorem setbias_one_frame {l : BiasLevel} {src : Source} {s : State} (ready : Ready s) (hatt : s.attached = true)
    (step : biasStep s.cfg l .abort = program s.cfg.pwr src .abort ++ [.recordBias l]) {v : Value}
    (hv : src.eval s s.cfg.pwr = some v) {err : Bool} {acc : BitVec 2} {rest : List TxEvent}
    (hans : s.answers = .answer err acc :: rest) :
    ∃ t, Ends (.setbias l) s t ⟨if txOk err acc then .ok else .ioError, 0#8, 0#32⟩ ∧
      Programmed s t s.cfg.pwr v (txOk err acc) ∧ t.bias = (if txOk err acc then l else s.bias) ∧
      t.pending = s.pending ∧ t.sysclk = s.sysclk ∧ t.attached = s.attached ∧ t.answers = rest := by
  obtain ⟨-, hn, -⟩ := Cfg.wf_named ready.1.1
  obtain ⟨t, ends, chain⟩ := exec_chain_last (i := .setbias l) ready (met_of_attached rfl hatt)
    (u := { s with rsp := none }) (ps := []) (p := (s.cfg.pwr, src, v)) (congrArg (fun ops => some (ops, Response.okay)) step) hans
    ⟨hn, (Source.eval_congr rfl rfl).trans hv, trivial⟩ (fun _ => rfl) (fun v q _ => runOps_recordBias l v q)
  refine ⟨t, okay_or_ioError _ ▸ ends, chain.programmed ready.1 ⟨⟨rfl, rfl⟩, rfl, rfl, rfl⟩ hn, chain.bias,
    chain.pending, chain.sysclk, chain.attached, chain.answers.trans ?_⟩
  rw [hans]
  exact drop_accepted 0 _ rest

/-- Settles O46: the source clears the standby bit. -/
theorem setbiasOnClearsStandby : Obligations.SetbiasOnClearsStandby := by
  intro s err acc rest ready hatt hans
  have notRst := (Cfg.wf_apart ready.1.1).1.1
  have hn := (Cfg.wf_named ready.1.1).2.1
  exact setbias_one_frame ready hatt rfl (eval_clearBits notRst hn _) hans

/-- Settles O48: the source sets the standby bit. -/
theorem setbiasStandbySetsStandby : Obligations.SetbiasStandbySetsStandby := by
  intro s err acc rest ready hatt hans
  have notRst := (Cfg.wf_apart ready.1.1).1.1
  have hn := (Cfg.wf_named ready.1.1).2.1
  exact setbias_one_frame ready hatt rfl (eval_setBits notRst hn _) hans

/-- Settles O49: a chain of two `Program`s of constants. -/
theorem setbiasOffPowersDown : Obligations.SetbiasOffPowersDown := by
  intro s ready hatt
  obtain ⟨-, hpwr, hact, -⟩ := Cfg.wf_named ready.1.1
  have met : (needOf (.setbias .off)).met s.attached = true := met_of_attached rfl hatt
  have before : SameCache s { s with rsp := none } := ⟨⟨rfl, rfl⟩, rfl, rfl, rfl⟩
  have evaluates : Evaluates { s with rsp := none }
      [(s.cfg.act, .const 0#16, 0#16), (s.cfg.pwr, .const 0xffff#16, 0xffff#16)] :=
    ⟨hact, rfl, hpwr, rfl, trivial⟩
  refine ⟨fun err acc rest hans failed => ?_, fun err acc rest hans => ?_⟩
  · obtain ⟨t, ends, chain⟩ := exec_chain_fails ready met rfl (post := [.recordBias .off]) (fun _ => rfl) evaluates
      (k := 0) rfl hans failed
    refine ⟨t, ends, chain.programmed ready.1 before hact,
      ⟨chain.bias, chain.pending, chain.sysclk, chain.attached⟩, chain.answers.trans ?_⟩
    rw [hans]
    exact drop_accepted 0 _ rest
  · obtain ⟨t, ends, chain⟩ := exec_chain_last (u := { s with rsp := none }) (ps := [(s.cfg.act, .const 0#16, 0#16)])
      ready met rfl hans evaluates (fun _ => rfl) (fun v q _ => runOps_recordBias .off v q)
    obtain ⟨ports, log, cells, flags⟩ := chain.cache.wrote_spec before ready.1 (by simp [acceptedWrites, hact, hpwr])
    refine ⟨t, ends, ports, chain.answers.trans ?_, log, fun a _ => (cells a).trans ?_, fun a => (flags a).trans ?_,
      chain.bias, chain.pending, chain.sysclk, chain.attached⟩
    · rw [hans]
      exact drop_accepted 1 _ rest
    · simp [acceptedWrites, lookup_cons_elim]
    · simp [acceptedWrites, lookup_cons_elim]

/-- Settles O51: a chain of three `Program`s of constants, after the level was saved. -/
theorem suspendPowersDown : Obligations.SuspendPowersDown := by
  intro s ready
  obtain ⟨-, hpwr, hact, -⟩ := Cfg.wf_named ready.1.1
  have met (hatt : s.attached = true) : (needOf .suspend).met s.attached = true := met_of_attached rfl hatt
  have before : SameCache s { s with rsp := none, pending := s.bias } := ⟨⟨rfl, rfl⟩, rfl, rfl, rfl⟩
  have evaluates : Evaluates { s with rsp := none, pending := s.bias } [(s.cfg.act, .const 0#16, 0#16),
      (s.cfg.act, .const 0#16, 0#16), (s.cfg.pwr, .const 0xffff#16, 0xffff#16)] :=
    ⟨hact, rfl, hact, rfl, hpwr, rfl, trivial⟩
  refine ⟨fun hdet => exec_unmet ready (unmet_of_detached rfl hdet), fun k err acc rest hatt hk hans failed => ?_,
    fun err acc rest hatt hans => ?_⟩
  · have first : k = 0 ∨ k = 1 := by omega
    have at_k : [(s.cfg.act, Source.const 0#16, 0#16), (s.cfg.act, .const 0#16, 0#16),
        (s.cfg.pwr, .const 0xffff#16, 0xffff#16)][k]? = some (s.cfg.act, .const 0#16, 0#16) := by
      obtain rfl | rfl := first <;> rfl
    have writes : acceptedWrites ([(s.cfg.act, Source.const 0#16, 0#16), (s.cfg.act, .const 0#16, 0#16),
        (s.cfg.pwr, .const 0xffff#16, 0xffff#16)].take k) = List.replicate k (s.cfg.act, 0#16, true) := by
      obtain rfl | rfl := first <;> rfl
    obtain ⟨t, ends, chain⟩ := exec_chain_fails ready (met hatt) rfl (post := [.recordBias .off]) (fun _ => rfl)
      evaluates at_k hans failed
    rw [writes] at chain
    obtain ⟨ports, log, cells, flags⟩ := chain.cache.wrote_spec before ready.1 fun w hw => by
      rcases List.mem_append.mp hw with hw | hw
      · rw [List.eq_of_mem_replicate hw]; exact hact
      · rw [List.mem_singleton.mp hw]; exact hact
    have others {a : Addr} (h : a ≠ s.cfg.act) : (List.replicate k (s.cfg.act, 0#16, true)).lookup a = none :=
      List.lookup_replicate_ne (by simpa using h)
    refine ⟨t, ends, ports, chain.answers.trans ?_, ?_, fun a _ => (cells a).trans ?_, fun a => (flags a).trans ?_,
      chain.pending, chain.bias, chain.sysclk, chain.attached⟩
    · rw [hans, List.length_append, List.length_replicate]
      exact drop_accepted k _ rest
    · rw [List.map_append, List.map_replicate] at log
      exact log
    · by_cases h : a = s.cfg.act <;> simp [lookup_cons_elim, h, others]
    · by_cases h : a = s.cfg.act <;> simp [lookup_cons_elim, h, others]
  · obtain ⟨t, ends, chain⟩ := exec_chain_last (u := { s with rsp := none, pending := s.bias })
      (ps := [(s.cfg.act, .const 0#16, 0#16), (s.cfg.act, .const 0#16, 0#16)]) ready (met hatt) rfl hans evaluates
      (fun _ => rfl) (fun v q _ => runOps_recordBias .off v q)
    obtain ⟨ports, log, cells, flags⟩ := chain.cache.wrote_spec before ready.1 (by simp [acceptedWrites, hact, hpwr])
    refine ⟨t, ends, ports, chain.answers.trans ?_, log, fun a _ => (cells a).trans ?_, fun a => (flags a).trans ?_,
      chain.pending, chain.bias, chain.sysclk, chain.attached⟩
    · rw [hans]
      exact drop_accepted 2 _ rest
    · by_cases h : a = s.cfg.act <;> simp [acceptedWrites, lookup_cons_elim, h]
    · by_cases h : a = s.cfg.act <;> simp [acceptedWrites, lookup_cons_elim, h]

end Sys2Proof.Machine
end

section
/-! ATTACH and DETACH (spec/44_power_lifecycle.md R207, R208). -/

namespace Sys2Proof.Machine

/-! ## Writes given as frames -/

/-- The writes of frames that were all accepted. -/
def acceptedFrames (fs : List (Addr × Value)) : List (Addr × Value × Bool) := fs.map fun f => (f.1, f.2, true)

/-- The address and the value of a `Program`. -/
def Write.frame (p : Write) : Addr × Value := (p.1, p.2.2)

theorem acceptedWrites_eq (ps : List Write) : acceptedWrites ps = acceptedFrames (ps.map Write.frame) := by
  rw [acceptedWrites, acceptedFrames, List.map_map]
  rfl

theorem lookup_map_snd {β γ : Type} (g : β → γ) (l : List (Addr × β)) (a : Addr) :
    (l.map fun p => (p.1, g p.2)).lookup a = (l.lookup a).map g := by
  induction l with
  | nil => rfl
  | cons p l ih =>
    rw [List.map_cons, List.lookup_cons, List.lookup_cons, ih]
    cases a == p.1 <;> rfl

theorem lookup_acceptedFrames (fs : List (Addr × Value)) (a : Addr) :
    (acceptedFrames fs).reverse.lookup a = (fs.reverse.lookup a).map fun v => (v, true) := by
  rw [acceptedFrames, ← List.map_reverse, lookup_map_snd fun v => (v, true)]

/-- The cells after the frames `fs`. -/
theorem cell_acceptedFrames (fs : List (Addr × Value)) (a : Addr) (d : Value) :
    ((acceptedFrames fs).reverse.lookup a).elim d Prod.fst = (fs.reverse.lookup a).getD d := by
  rw [lookup_acceptedFrames]
  cases fs.reverse.lookup a <;> rfl

/-- The flags after the frames `fs` of a block with no flag set. -/
theorem flag_acceptedFrames (fs : List (Addr × Value)) (a : Addr) :
    ((acceptedFrames fs).reverse.lookup a).elim false Prod.snd = decide (a ∈ fs.map Prod.fst) := by
  have found : (fs.reverse.lookup a).isSome = true ↔ a ∈ fs.map Prod.fst := by
    rw [List.lookup_isSome_iff, List.mem_map]
    simp only [List.mem_reverse, beq_iff_eq, eq_comm (a := a)]
  rw [lookup_acceptedFrames, Bool.eq_iff_iff, decide_eq_true_eq, ← found]
  cases fs.reverse.lookup a <;> simp

/-! ## ATTACH -/

/-- The block when ATTACH has seeded it and recorded the clock. -/
def State.attaching (s : State) (clk : Hz) : State := { State.seed { s with rsp := none } with sysclk := clk }

/-- The `Program`s of ATTACH with the values they write. -/
def attachWrites (c : Cfg) : List Write :=
  let d := fun a : Addr => c.defaults.getD a.toNat 0#16
  let l := d c.involL ||| c.updateMask
  let r := d c.involR ||| c.updateMask
  [(c.rst, .const 0#16, 0#16), (c.involL, .setBits c.updateMask, l), (c.involR, .setBits c.updateMask, r),
    (c.pwr, .setBits c.standbyMask,
      (if c.pwr = c.involL then l else if c.pwr = c.involR then r else d c.pwr) ||| c.standbyMask)]

theorem shaped_attaching {s : State} (h : Shaped s) (clk : Hz) : Shaped (s.attaching clk) :=
  (shaped_iff _).mpr ⟨h.1, Cfg.wf_defaults h.1, List.length_replicate⟩

/-- `setBits` of a cell whose value is known. -/
theorem eval_setBits_of_cell {s : State} {c : Cfg} {a : Addr} {v m : Value} (hcfg : s.cfg = c) (notRst : a ≠ c.rst)
    (ha : a.toNat < c.n) (cell : s.xAt a = v) : Source.eval s a (.setBits m) = some (v ||| m) := by
  subst hcfg
  rw [eval_setBits notRst ha, cell]

/-- Each source of ATTACH reads what the seed and the writes before it left. -/
theorem evaluates_attachWrites {s : State} (h : Shaped s) (clk : Hz) :
    Evaluates (s.attaching clk) (attachWrites s.cfg) := by
  obtain ⟨hrst, hpwr, -, -, -, -, hl, hr⟩ := Cfg.wf_named h.1
  obtain ⟨⟨pwrRst, -, -, -, -, lRst, rRst⟩, -, lr⟩ := Cfg.wf_apart h.1
  have hx : (s.attaching clk).x.length = s.cfg.n := ((shaped_iff _).mp (shaped_attaching h clk)).2.1
  refine ⟨hrst, rfl, hl, eval_setBits_of_cell rfl lRst hl ?_, hr, eval_setBits_of_cell rfl rRst hr ?_, hpwr,
    eval_setBits_of_cell rfl pwrRst hpwr ?_, trivial⟩
  · exact State.xAt_withCell_of_ne _ _ lRst
  · rw [State.xAt_withCell_of_ne _ _ (Ne.symm lr), State.xAt_withCell_of_ne _ _ rRst]
    rfl
  · rw [State.xAt_withCell _ (by simpa [hx] using hr), State.xAt_withCell _ (by simpa [hx] using hl),
      State.xAt_withCell_of_ne _ _ pwrRst]
    by_cases h1 : s.cfg.pwr = s.cfg.involL
    · simp [h1, lr]
    · simp only [h1, if_false]
      rfl

/-- Settles O58: a chain of four `Program`s from the seeded cells. -/
theorem attachBringsUp : Obligations.AttachBringsUp := by
  intro s clk ready c d l r p frames
  have met (hdet : s.attached = false) : (needOf (.attach clk)).met s.attached = true := by rw [hdet]; rfl
  have seeded := shaped_attaching ready.1 clk
  have evaluates := evaluates_attachWrites ready.1 clk
  have same : SameCache (s.attaching clk) (s.attaching clk) := ⟨⟨rfl, rfl⟩, rfl, rfl, rfl⟩
  have frames_eq : (attachWrites s.cfg).map Write.frame = frames := rfl
  have inRange : ∀ f ∈ frames, f.1.toNat < s.cfg.n := by
    obtain ⟨hrst, hpwr, -, -, -, -, hl, hr⟩ := Cfg.wf_named ready.1.1
    simp [frames, c, hrst, hpwr, hl, hr]
  refine ⟨fun hatt => exec_unmet ready (by rw [hatt]; rfl), fun rest hdet hans => ?_,
    fun k f err acc rest hdet at_k hans failed => ?_⟩
  · have run := exec_chain_accepted ready (met hdet) rfl (u := s.attaching clk)
      (post := [.recordBias .standby, .setAttached true]) (fun _ => rfl) evaluates hans
    have after : SameCache ((s.attaching clk).wrote (acceptedWrites (attachWrites s.cfg)))
        (runOps false [.recordBias .standby, .setAttached true]
          ((s.attaching clk).wrote (acceptedWrites (attachWrites s.cfg)))
          (Sequencer.countedBy ⟨[], 0#8, none, Response.okay⟩ (attachWrites s.cfg).length)) :=
      ⟨⟨rfl, rfl⟩, rfl, rfl, rfl⟩
    rw [acceptedWrites_eq, frames_eq] at run after
    obtain ⟨ports, log, cells, flags⟩ := after.wrote_spec same seeded (List.forall_mem_map.mpr inRange)
    refine ⟨_, ⟨run, rfl, rfl⟩, ⟨ports.cfg, ports.host⟩, ?_, log.trans ?_,
      fun a _ => (cells a).trans (cell_acceptedFrames _ _ _), fun a => (flags a).trans ?_, rfl, rfl, State.wrote_pending _ _, State.wrote_sysclk _ _⟩
    · exact (State.wrote_answers _ _).trans (congrArg (List.drop 4) hans)
    · rw [acceptedFrames, List.map_map]
      rfl
    · rw [show (s.attaching clk).confAt a = false from getD_confSeeded s.cfg a.toNat, flag_acceptedFrames]
  · have at_ps := at_k
    rw [← frames_eq, List.getElem?_map] at at_ps
    obtain ⟨p, at_p, rfl⟩ := Option.map_eq_some_iff.mp at_ps
    obtain ⟨t, ends, chain⟩ := exec_chain_fails ready (met hdet) rfl (u := s.attaching clk)
      (post := [.recordBias .standby, .setAttached true]) (fun _ => rfl) evaluates at_p hans failed
    rw [acceptedWrites_eq, List.map_take, frames_eq] at chain
    have before := List.length_take_of_le (List.getElem?_eq_some_iff.mp at_k).1.le
    have upTo : (frames.take (k + 1)).reverse = p.frame :: (frames.take k).reverse := by
      rw [List.take_add_one, at_k, List.reverse_append]
      rfl
    have last : (acceptedFrames (frames.take k) ++ [(p.1, p.2.2, false)]).reverse =
        (p.1, p.2.2, false) :: (acceptedFrames (frames.take k)).reverse := List.reverse_append
    obtain ⟨ports, log, cells, flags⟩ := chain.cache.wrote_spec same seeded fun w hw => by
      rcases List.mem_append.mp hw with hw | hw
      · obtain ⟨f, hf, rfl⟩ := List.mem_map.mp hw
        exact inRange f (List.mem_of_mem_take hf)
      · rw [List.mem_singleton.mp hw]
        exact inRange p.frame (List.mem_of_getElem? at_k)
    refine ⟨t, ends, ⟨ports.cfg, ports.host⟩, chain.answers.trans ?_, log.trans ?_, fun a _ => (cells a).trans ?_,
      fun a => (flags a).trans ?_, chain.attached.trans hdet, chain.bias, chain.pending, chain.sysclk⟩
    · rw [List.length_append, acceptedFrames, List.length_map, before]
      exact (congrArg (List.drop (k + 1)) hans).trans (drop_accepted k _ rest)
    · rw [List.map_append, acceptedFrames, List.map_map]
      rfl
    · rw [last, lookup_cons_elim, cell_acceptedFrames, upTo]
      simp only [List.lookup_cons, Write.frame]
      by_cases h : a = p.1
      · simp [h]
      · simp only [h, if_false, show (a == p.1) = false by simpa using h]
        rfl
    · rw [last, lookup_cons_elim, show (s.attaching clk).confAt a = false from getD_confSeeded s.cfg a.toNat,
        flag_acceptedFrames]
      by_cases h : a = p.1 <;> simp [h, Write.frame]

/-- Settles O59: the seed and the detachment are all that DETACH does. -/
theorem detachSeeds : Obligations.DetachSeeds := by
  intro s ready
  refine ⟨fun hdet => exec_unmet ready (unmet_of_detached rfl hdet), fun hatt => ?_⟩
  have run := exec_of_plan (i := .detach) ready (met_of_attached rfl hatt) rfl
  exact ⟨_, ⟨run, rfl, rfl⟩, ⟨rfl, rfl⟩, rfl, (List.append_nil _).symm, fun _ _ => rfl,
    fun a => getD_confSeeded s.cfg a.toNat, rfl, rfl, rfl, rfl⟩

end Sys2Proof.Machine
end

section
/-! RESUME (spec/44_power_lifecycle.md R202, R204): the replay, then two bias steps whose failed frames end only the
step. -/

namespace Sys2Proof.Machine

/-- `clearBits` of a cell whose value is known. -/
theorem eval_clearBits_of_cell {s : State} {c : Cfg} {a : Addr} {v m : Value} (hcfg : s.cfg = c) (notRst : a ≠ c.rst)
    (ha : a.toNat < c.n) (cell : s.xAt a = v) : Source.eval s a (.clearBits m) = some (v &&& ~~~m) := by
  subst hcfg
  rw [eval_clearBits notRst ha, cell]

/-! ## The state a RESUME has reached -/

/-- The state of a RESUME whose replay was answered with `bs`, which then wrote `ws` and has the level `level`. -/
def State.resuming (s : State) (bs : List TxEvent) (ws : List (Addr × Value × Bool)) (level : BiasLevel) : State :=
  { (({ s with rsp := none } : State).replayed ((replayAddrs s.cfg).zip bs)).wrote ws with bias := level }

section
variable (s : State) (bs : List TxEvent) (ws : List (Addr × Value × Bool)) (level : BiasLevel)
@[simp] theorem State.resuming_cfg : (s.resuming bs ws level).cfg = s.cfg := by simp [State.resuming]
@[simp] theorem State.resuming_host : (s.resuming bs ws level).host = s.host := by simp [State.resuming]
@[simp] theorem State.resuming_pending : (s.resuming bs ws level).pending = s.pending := by simp [State.resuming]
@[simp] theorem State.resuming_sysclk : (s.resuming bs ws level).sysclk = s.sysclk := by simp [State.resuming]
@[simp] theorem State.resuming_attached : (s.resuming bs ws level).attached = s.attached := by simp [State.resuming]
end

theorem State.wrote_append (s : State) (ws ws' : List (Addr × Value × Bool)) :
    s.wrote (ws ++ ws') = (s.wrote ws).wrote ws' := by
  induction ws generalizing s with
  | nil => rfl
  | cons w ws ih => exact ih _

theorem State.resuming_replayed (s : State) (bs : List TxEvent) :
    s.resuming bs [] s.bias = ({ s with rsp := none } : State).replayed ((replayAddrs s.cfg).zip bs) := by
  have same {t : State} {level : BiasLevel} (h : t.bias = level) : { t with bias := level } = t := by subst h; rfl
  exact same (State.replayed_bias _)

/-- One more `Program`. -/
theorem State.resuming_programmed (s : State) (bs : List TxEvent) (ws : List (Addr × Value × Bool)) (level : BiasLevel)
    (a : Addr) (v : Value) (ok : Bool) :
    (s.resuming bs ws level).programmed a v ok ((s.resuming bs ws level).answers.drop 1) =
      s.resuming bs (ws ++ [(a, v, ok)]) level := by
  simp only [State.resuming, State.wrote_append]
  rfl

section
variable {s : State} (shaped : Shaped s) {bs : List TxEvent} (length : bs.length = s.cfg.n - 1)
include shaped length

theorem addrs_zip_bs : (((replayAddrs s.cfg).zip bs).map Prod.fst) = replayAddrs s.cfg :=
  List.map_fst_zip ((length_replayAddrs shaped.1).trans length.symm).le

theorem answers_zip_bs : (((replayAddrs s.cfg).zip bs).map Prod.snd) = bs :=
  List.map_snd_zip (length.trans (length_replayAddrs shaped.1).symm).le

omit length in
theorem shaped_replayed : Shaped (({ s with rsp := none } : State).replayed ((replayAddrs s.cfg).zip bs)) := by
  rw [shaped_iff] at shaped ⊢
  simpa using shaped

/-- The log, the cells and the flags a RESUME has reached. -/
theorem resuming_spec {ws : List (Addr × Value × Bool)} (level : BiasLevel)
    (inRange : ∀ w ∈ ws, w.1.toNat < s.cfg.n) :
    Logged s (s.resuming bs ws level)
      (List.zipWith (fun a e => ⟨frameOf a (s.xAt a), e.isOk⟩) (replayAddrs s.cfg) bs ++
        ws.map fun w => ⟨frameOf w.1 w.2.1, w.2.2⟩) ∧
    (∀ a, (s.resuming bs ws level).xAt a = (ws.reverse.lookup a).elim (s.xAt a) Prod.fst) ∧
    ∀ a, (s.resuming bs ws level).confAt a = (ws.reverse.lookup a).elim (replayFlag s bs a) Prod.snd := by
  obtain ⟨log, cells, flags⟩ := State.wrote_spec (shaped_replayed shaped) (by simpa using inRange)
  refine ⟨?_, fun a => (cells a).trans ?_, fun a => (flags a).trans ?_⟩
  · rw [Logged, ← List.append_assoc]
    refine log.trans (congrArg (· ++ _) ?_)
    rw [State.replayed_txlog, List.map_zip_eq_zipWith]
    rfl
  · rw [State.xAt, State.replayed_x]
    rfl
  · rw [State.replayed_confAt]
    · rfl
    · rw [addrs_zip_bs shaped length]
      exact nodup_of_ascending (replayAddrs_ascending shaped.1)
    · intro p hp
      have := (mem_replayAddrs shaped.1 p.1).mp (List.of_mem_zip hp).1
      exact ((shaped_iff _).mp shaped).2.2 ▸ this.1

end

/-! ## How a RESUME runs -/

/-- A RESUME of `s` comes to the steps `ops`, with these answers still to come. -/
structure ResumeAt (s : State) (bs : List TxEvent) (ws : List (Addr × Value × Bool)) (level : BiasLevel)
    (rest : List TxEvent) (skipping : Bool) (ops : List MicroOp) : Prop where
  runs    : ∃ q, exec .resume s = .next (runOps skipping ops (s.resuming bs ws level) q) ∧
              Tracks q (bs.map TxEvent.isOk ++ ws.map fun w => w.2.2) ∧ q.reply = Response.okay
  answers : (s.resuming bs ws level).answers = rest

theorem tracks_replayed {q : Sequencer} {oks : List Bool} (h : Tracks q oks) (l : List (Addr × TxEvent)) :
    Tracks (q.replayed l) (oks ++ l.map fun p => p.2.isOk) := by
  induction l generalizing q oks with
  | nil => exact (List.append_nil oks).symm ▸ h
  | cons p l ih =>
    have later := ih (h.answered p.2.isOk)
    rw [List.append_assoc] at later
    exact later

theorem replayed_reply (l : List (Addr × TxEvent)) (q : Sequencer) : (q.replayed l).reply = q.reply := by
  induction l generalizing q with
  | nil => rfl
  | cons p l ih =>
    refine (ih _).trans ?_
    cases p.2.isOk <;> rfl

/-- A RESUME whose replay is answered comes to the bias steps. -/
theorem resumeAt_replayed {s : State} {bs rest : List TxEvent} (ready : Ready s) (hatt : s.attached = true)
    (length : bs.length = s.cfg.n - 1) (answers : ∀ e ∈ bs, e.isAnswer = true) (hans : s.answers = bs ++ rest) :
    ResumeAt s bs [] s.bias rest false
      (.stage :: biasStep s.cfg .standby .endStage ++ .stage :: biasStep s.cfg s.pending .endStage) := by
  have addrs := addrs_zip_bs ready.1 length
  have events := answers_zip_bs ready.1 length
  have frames : replay s.cfg = ((replayAddrs s.cfg).zip bs).map fun p => .send p.1 .record := by
    rw [replay, ← congrArg (List.map _) addrs, List.map_map]
    rfl
  have hans' : ({ s with rsp := none } : State).answers = ((replayAddrs s.cfg).zip bs).map Prod.snd ++ rest := by
    rw [events]
    exact hans
  refine ⟨⟨(⟨[], 0#8, none, Response.okay⟩ : Sequencer).replayed ((replayAddrs s.cfg).zip bs), ?_, ?_,
    replayed_reply _ _⟩, s.resuming_replayed bs ▸ State.replayed_answers _ hans'⟩
  · rw [exec_of_plan ready (met_of_attached rfl hatt) rfl, State.launch, frames, List.append_assoc,
      runOps_replay _ _ hans' fun p hp => answers _ (List.of_mem_zip hp).2]
    rw [State.resuming_replayed]
  · have tracks := tracks_replayed (tracks_fresh Response.okay) ((replayAddrs s.cfg).zip bs)
    rw [show (fun p : Addr × TxEvent => p.2.isOk) = TxEvent.isOk ∘ Prod.snd from rfl, ← List.map_map, events] at tracks
    exact (List.append_nil _).symm ▸ tracks

section
variable {s : State} {bs : List TxEvent} {ws : List (Addr × Value × Bool)} {level : BiasLevel} {rest : List TxEvent}
  {ops : List MicroOp}

/-- A stage begins, whether or not the one before it failed. -/
theorem ResumeAt.stage {skipping : Bool} (h : ResumeAt s bs ws level rest skipping (.stage :: ops)) :
    ResumeAt s bs ws level rest false ops := by
  obtain ⟨⟨q, hexec, tracks⟩, answers⟩ := h
  refine ⟨⟨q, hexec.trans ?_, tracks⟩, answers⟩
  cases skipping <;> rfl

/-- The level is recorded unless the stage failed. -/
theorem ResumeAt.recordBias {skipping : Bool} {l : BiasLevel}
    (h : ResumeAt s bs ws level rest skipping (.recordBias l :: ops)) :
    ResumeAt s bs ws (if skipping then level else l) rest skipping ops := by
  obtain ⟨⟨q, hexec, tracks⟩, answers⟩ := h
  refine ⟨⟨q, hexec.trans ?_, tracks⟩, answers⟩
  cases skipping <;> rfl

/-- What is left of a failed stage is not done. -/
theorem ResumeAt.program_skipped {a : Addr} {src : Source}
    (h : ResumeAt s bs ws level rest true (program a src .endStage ++ ops)) :
    ResumeAt s bs ws level rest true ops := ⟨h.runs, h.answers⟩

/-- A `Program` of a stage, with either answer. -/
theorem ResumeAt.program {a : Addr} {src : Source} {v : Value} {err : Bool} {acc : BitVec 2}
    (h : ResumeAt s bs ws level (.answer err acc :: rest) false (program a src .endStage ++ ops))
    (hv : src.eval (s.resuming bs ws level) a = some v) (ha : a.toNat < s.cfg.n) :
    ResumeAt s bs (ws ++ [(a, v, txOk err acc)]) level rest (! txOk err acc) ops := by
  obtain ⟨⟨q, hexec, tracks, reply⟩, answers⟩ := h
  have drop : rest = (s.resuming bs ws level).answers.drop 1 := by rw [answers]; rfl
  refine ⟨⟨q.answered (txOk err acc), ?_, ?_, ?_⟩, ?_⟩
  · rw [hexec, runOps_program ops hv (by simpa using ha) answers, drop, ← State.resuming_programmed]
    cases txOk err acc <;> rfl
  · rw [List.map_append, ← List.append_assoc]
    exact tracks.answered _
  · cases txOk err acc <;> exact reply
  · rw [← State.resuming_programmed, drop]
    rfl

/-- A bias step of one `Program`. -/
theorem ResumeAt.oneFrame {a : Addr} {src : Source} {v : Value} {err : Bool} {acc : BitVec 2} {l : BiasLevel}
    (h : ResumeAt s bs ws level (.answer err acc :: rest) false
      (Machine.program a src .endStage ++ .recordBias l :: ops))
    (hv : src.eval (s.resuming bs ws level) a = some v) (ha : a.toNat < s.cfg.n) :
    ResumeAt s bs (ws ++ [(a, v, txOk err acc)]) (if txOk err acc then l else level) rest (! txOk err acc) ops := by
  have after := (h.program hv ha).recordBias
  cases ok : txOk err acc <;> rw [ok] at after <;> exact after

/-- A RESUME that comes to the end of its steps. -/
theorem ResumeAt.finish {skipping : Bool} (h : ResumeAt s bs ws level rest skipping []) (shaped : Shaped s)
    (length : bs.length = s.cfg.n - 1) (inRange : ∀ w ∈ ws, w.1.toNat < s.cfg.n) :
    ∃ t, t.answers = rest ∧ Resumed s t bs ws level := by
  obtain ⟨⟨q, hexec, tracks, reply⟩, answers⟩ := h
  obtain ⟨log, cells, flags⟩ := resuming_spec shaped length level inRange
  have result : q.result = resumeResponse (bs.map TxEvent.isOk ++ ws.map fun w => w.2.2) := by
    rw [Sequencer.result, tracks.firstFail, reply, firstFailure, resumeResponse]
    cases List.findIdx? (! ·) (bs.map TxEvent.isOk ++ ws.map fun w => w.2.2) <;> rfl
  exact ⟨(s.resuming bs ws level).respond q.result, answers, ⟨⟨hexec, rfl, congrArg some result⟩,
    ⟨s.resuming_cfg bs ws level, s.resuming_host bs ws level⟩, log, fun a _ => cells a, flags, rfl,
    s.resuming_pending bs ws level, s.resuming_sysclk bs ws level, s.resuming_attached bs ws level⟩⟩

end

/-! ## What RESUME does -/

/-- Settles O52: the replay is the first part of the log, and the run from there on only adds to it. -/
theorem replaySendsEveryCell : Obligations.ReplaySendsEveryCell := by
  intro s t bs rest ready hatt hans length answers hexec
  obtain ⟨⟨q, run, -⟩, -⟩ := resumeAt_replayed ready hatt length answers hans
  obtain ⟨log, -⟩ := resuming_spec ready.1 length s.bias (ws := []) nofun
  obtain ⟨es, later, -⟩ := (runs_runOps false _ (s.resuming bs [] s.bias) q).logs
  cases hexec.symm.trans run
  refine ⟨replayAddrs s.cfg, es, replayAddrs_ascending ready.1.1, mem_replayAddrs ready.1.1, ?_⟩
  rw [Logged, later, log, List.map_nil, List.append_nil, List.append_assoc]

section
variable {s : State} {bs rest : List TxEvent} (ready : Ready s) (hatt : s.attached = true)
  (length : bs.length = s.cfg.n - 1) (answers : ∀ e ∈ bs, e.isAnswer = true)
include ready hatt length answers

/-- A RESUME comes to the step of the pending level, after the Standby step. -/
theorem resumeAt_pending {err : Bool} {acc : BitVec 2} (hans : s.answers = bs ++ .answer err acc :: rest) :
    ResumeAt s bs [(s.cfg.pwr, s.xAt s.cfg.pwr ||| s.cfg.standbyMask, txOk err acc)]
      (if txOk err acc then .standby else s.bias) rest false (biasStep s.cfg s.pending .endStage) := by
  have notRst := (Cfg.wf_apart ready.1.1).1.1
  have hn := (Cfg.wf_named ready.1.1).2.1
  have cell := (resuming_spec ready.1 length s.bias (ws := []) nofun).2.1 s.cfg.pwr
  exact ((resumeAt_replayed ready hatt length answers hans).stage.oneFrame
    (eval_setBits_of_cell (State.resuming_cfg _ _ _ _) notRst hn cell) hn).stage

end

/-- Settles O54: the step of the pending level ends the RESUME. -/
theorem resumeGoesOnAfterFailure : Obligations.ResumeGoesOnAfterFailure := by
  intro s bs rest e1 e2 c1 c2 ready hatt length answers pwr p level
  have notRst := (Cfg.wf_apart ready.1.1).1.1
  have hn := (Cfg.wf_named ready.1.1).2.1
  have cell : (s.resuming bs [(pwr, p, txOk e1 c1)] level).xAt pwr = p := by
    rw [(resuming_spec ready.1 length level fun w hw => List.mem_singleton.mp hw ▸ hn).2.1 pwr,
      List.reverse_singleton, List.lookup_cons_self]
    rfl
  refine ⟨fun pending hans => ?_, fun pending hans => ?_, fun pending hans => ?_⟩ <;>
    have resumed := resumeAt_pending ready hatt length answers hans <;> rw [pending] at resumed
  · exact (resumed.oneFrame (eval_clearBits_of_cell (State.resuming_cfg _ _ _ _) notRst hn cell) hn).finish ready.1
      length (by simp [hn])
  · have again : p ||| s.cfg.standbyMask = p := by rw [BitVec.or_assoc, BitVec.or_self]
    have step := resumed.oneFrame (eval_setBits_of_cell (State.resuming_cfg _ _ _ _) notRst hn cell) hn
    rw [again] at step
    exact step.finish ready.1 length (by simp [hn])
  · exact resumed.recordBias.finish ready.1 length (by simp [hn])

/-- Settles O55: a failed frame of the stream-active register ends the stage. -/
theorem resumeToOffGoesOnAfterFailure : Obligations.ResumeToOffGoesOnAfterFailure := by
  intro s bs rest e1 e2 c1 c2 ready hatt pending length answers pwr p level
  obtain ⟨-, hn, hact, -⟩ := Cfg.wf_named ready.1.1
  refine ⟨fun hans failed => ?_, fun e3 c3 hans ok => ?_⟩ <;>
    have resumed := resumeAt_pending ready hatt length answers hans <;> rw [pending] at resumed
  · have step := resumed.program rfl hact
    rw [failed] at step
    exact step.program_skipped.recordBias.finish ready.1 length (by simp [hn, hact])
  · have step := resumed.program rfl hact
    rw [ok] at step
    exact (step.oneFrame rfl hn).finish ready.1 length (by simp [hn, hact])

end Sys2Proof.Machine
end

section
/-! RESUME with every frame accepted (spec/44_power_lifecycle.md R204). -/

namespace Sys2Proof.Machine

/-! ## RESUME with every frame accepted -/

theorem isOk_of_mem_accepted {n : Nat} {e : TxEvent} (h : e ∈ accepted n) : e.isOk = true :=
  List.eq_of_mem_replicate h ▸ rfl

theorem isAnswer_of_mem_accepted {n : Nat} {e : TxEvent} (h : e ∈ accepted n) : e.isAnswer = true :=
  List.eq_of_mem_replicate h ▸ rfl

theorem resumeResponse_accepted {oks : List Bool} (h : ∀ ok ∈ oks, ok = true) :
    resumeResponse oks = ⟨.ok, 0#8, 0#32⟩ := by
  have none : oks.findIdx? (! ·) = none := List.findIdx?_eq_none_iff.mpr fun ok hm => by simp [h ok hm]
  rw [resumeResponse, none]

theorem zipWith_accepted {n : Nat} {γ : Type} (f : Addr → TxEvent → γ) {as : List Addr} (h : as.length = n) :
    List.zipWith f as (accepted n) = as.map fun a => f a (.answer false 2#2) := by
  subst h
  rw [accepted]
  induction as with
  | nil => rfl
  | cons a as ih => exact congrArg (_ :: ·) ih

/-- The flags after an accepted replay. -/
theorem replayFlag_accepted {s : State} (shaped : Shaped s) (a : Addr) :
    replayFlag s (accepted (s.cfg.n - 1)) a = if a = s.cfg.rst then s.confAt a else decide (a.toNat < s.cfg.n) := by
  have zip : (replayAddrs s.cfg).zip (accepted (s.cfg.n - 1)) =
      (replayAddrs s.cfg).map fun a => (a, .answer false 2#2) := zipWith_accepted _ (length_replayAddrs shaped.1)
  rw [replayFlag, zip]
  by_cases sent : a ∈ replayAddrs s.cfg
  · obtain ⟨inside, notRst⟩ := (mem_replayAddrs shaped.1 a).mp sent
    rw [List.lookup_graph _ sent, if_neg notRst, decide_eq_true inside]
    rfl
  · have none : ((replayAddrs s.cfg).map fun a => (a, TxEvent.answer false 2#2)).lookup a = none := by
      rw [List.lookup_eq_none_iff]
      intro p hp
      obtain ⟨b, hb, rfl⟩ := List.mem_map.mp hp
      exact bne_iff_ne.mpr fun h : a = b => sent (h ▸ hb)
    rw [none]
    by_cases h : a = s.cfg.rst
    · rw [if_pos h]
      rfl
    · have outside : ¬ a.toNat < s.cfg.n := fun inside => sent ((mem_replayAddrs shaped.1 a).mpr ⟨inside, h⟩)
      have absent : s.conf.length ≤ a.toNat := ((shaped_iff _).mp shaped).2.2 ▸ Nat.not_lt.mp outside
      rw [if_neg h, decide_eq_false outside]
      exact List.getD_eq_default _ _ absent

/-- The entry of a key in a list that begins with one. -/
theorem lookup_cons_getD {β : Type} (a b : Addr) (w : β) (ws : List (Addr × β)) (d : β) :
    (((a, w) :: ws).lookup b).getD d = if b = a then w else (ws.lookup b).getD d := by
  rw [List.lookup_cons]
  by_cases h : b = a
  · simp [h]
  · simp [h, show (b == a) = false by simpa using h]

/-- What a RESUME did all of whose frames were accepted. -/
theorem Resumed.of_accepted {s t : State} (shaped : Shaped s) {fs : List (Addr × Value)} {level : BiasLevel}
    (resumed : Resumed s t (accepted (s.cfg.n - 1)) (acceptedFrames fs) level)
    (inRange : ∀ f ∈ fs, f.1.toNat < s.cfg.n ∧ f.1 ≠ s.cfg.rst) :
    Ends .resume s t ⟨.ok, 0#8, 0#32⟩ ∧
      Logged s t ((replayAddrs s.cfg).map (fun a => okEntry a (s.xAt a)) ++ fs.map fun f => okEntry f.1 f.2) ∧
      CellsAre s t (fun a => (fs.reverse.lookup a).getD (s.xAt a)) ∧
      FlagsAre t fun a => if a = s.cfg.rst then s.confAt a else decide (a.toNat < s.cfg.n) := by
  obtain ⟨ends, -, log, cells, flags, -⟩ := resumed
  rw [resumeResponse_accepted] at ends
  rw [zipWith_accepted _ (length_replayAddrs shaped.1), acceptedFrames, List.map_map] at log
  · refine ⟨ends, log, fun a h => (cells a h).trans (cell_acceptedFrames _ _ _), fun a => (flags a).trans ?_⟩
    simp only [lookup_acceptedFrames, replayFlag_accepted shaped]
    cases found : fs.reverse.lookup a with
    | none => rfl
    | some v =>
      obtain ⟨before, after, split, -⟩ := List.lookup_eq_some_iff.mp found
      have sent : (a, v) ∈ fs := List.mem_reverse.mp (split ▸ List.mem_append_right before (.head after))
      obtain ⟨inside, notRst⟩ := inRange (a, v) sent
      exact ((if_neg notRst).trans (decide_eq_true inside)).symm
  · intro ok hm
    rcases List.mem_append.mp hm with hm | hm
    · obtain ⟨e, he, rfl⟩ := List.mem_map.mp hm
      exact isOk_of_mem_accepted he
    · rw [acceptedFrames, List.map_map] at hm
      obtain ⟨f, -, rfl⟩ := List.mem_map.mp hm
      rfl

/-- The same, for a RESUME that restored the pending level through Standby. -/
theorem Resumed.restores {s t : State} (ready : Ready s) {fs : List (Addr × Value)} {level : BiasLevel} {p : Value}
    {rest : List TxEvent} {cell : Addr → Value} (answers : t.answers = rest) (pending : s.pending = level)
    (resumed : Resumed s t (accepted (s.cfg.n - 1)) (acceptedFrames ((s.cfg.pwr, p) :: fs)) level)
    (inRange : ∀ f ∈ fs, f.1 = s.cfg.pwr ∨ f.1 = s.cfg.act)
    (after : ∀ a, (((s.cfg.pwr, p) :: fs).reverse.lookup a).getD (s.xAt a) = cell a) :
    Ends .resume s t ⟨.ok, 0#8, 0#32⟩ ∧ PortsKept s t ∧ t.answers = rest ∧
      Logged s t ((replayAddrs s.cfg).map (fun a => okEntry a (s.xAt a)) ++ [okEntry s.cfg.pwr p] ++
        fs.map fun f => okEntry f.1 f.2) ∧
      CellsAre s t cell ∧
      FlagsAre t (fun a => if a = s.cfg.rst then s.confAt a else decide (a.toNat < s.cfg.n)) ∧
      t.bias = level ∧ t.pending = level ∧ t.sysclk = s.sysclk ∧ t.attached = s.attached := by
  obtain ⟨-, hpwr, hact, -⟩ := Cfg.wf_named ready.1.1
  obtain ⟨⟨pwrRst, actRst, -⟩, -⟩ := Cfg.wf_apart ready.1.1
  have written : ∀ f ∈ (s.cfg.pwr, p) :: fs, f.1.toNat < s.cfg.n ∧ f.1 ≠ s.cfg.rst := by
    intro f hf
    have addr : f.1 = s.cfg.pwr ∨ f.1 = s.cfg.act := by
      rcases List.mem_cons.mp hf with rfl | hf
      · exact .inl rfl
      · exact inRange f hf
    rcases addr with h | h <;> rw [h]
    · exact ⟨hpwr, pwrRst⟩
    · exact ⟨hact, actRst⟩
  obtain ⟨ends, log, cells, flags⟩ := resumed.of_accepted ready.1 written
  rw [List.map_cons, List.append_cons] at log
  exact ⟨ends, resumed.ports, answers, log, fun a h => (cells a h).trans (after a), flags, resumed.bias,
    resumed.pending.trans pending, resumed.sysclk, resumed.attached⟩

/-- Settles O53: the RESUME of each pending level, with accepted answers. -/
theorem resumeRestoresPending : Obligations.ResumeRestoresPending := by
  intro s ready
  refine ⟨fun hdet => exec_unmet ready (unmet_of_detached rfl hdet), fun rest hatt hans => ?_⟩
  have length : (accepted (s.cfg.n - 1)).length = s.cfg.n - 1 := List.length_replicate
  have split (k : Nat) : accepted (s.cfg.n - 1 + 1 + k) ++ rest =
      accepted (s.cfg.n - 1) ++ .answer false 2#2 :: (accepted k ++ rest) := by
    rw [accepted, accepted, accepted, Nat.add_assoc, Nat.add_comm 1 k, List.replicate_add, List.append_assoc]
    rfl
  have goesOn := resumeGoesOnAfterFailure s (accepted (s.cfg.n - 1)) rest false false 2#2 2#2 ready hatt length
    fun _ => isAnswer_of_mem_accepted
  have goesOnToOff := fun pending => (resumeToOffGoesOnAfterFailure s (accepted (s.cfg.n - 1)) rest false false 2#2 2#2
    ready hatt pending length fun _ => isAnswer_of_mem_accepted).2 false 2#2
  rw [split] at hans
  cases pending : s.pending <;> rw [pending] at hans
  case on =>
    obtain ⟨t, answers, resumed⟩ := goesOn.1 pending hans
    refine ⟨t, resumed.restores ready (fs := [(_, _)]) answers pending (by simp) fun a => ?_⟩
    by_cases h : a = s.cfg.pwr <;> simp [lookup_cons_getD, h]
  case standby =>
    obtain ⟨t, answers, resumed⟩ := goesOn.2.1 pending hans
    refine ⟨t, resumed.restores ready (fs := [(_, _)]) answers pending (by simp) fun a => ?_⟩
    by_cases h : a = s.cfg.pwr <;> simp [lookup_cons_getD, h]
  case prepare =>
    obtain ⟨t, answers, resumed⟩ := goesOn.2.2 pending hans
    refine ⟨t, resumed.restores ready (fs := []) answers pending nofun fun a => ?_⟩
    by_cases h : a = s.cfg.pwr <;> simp [lookup_cons_getD, h]
  case off =>
    obtain ⟨t, answers, resumed⟩ := goesOnToOff pending hans rfl
    refine ⟨t, resumed.restores ready (fs := [(_, _), (_, _)]) answers pending (by simp) fun a => ?_⟩
    by_cases h : a = s.cfg.pwr <;> simp [lookup_cons_getD, h]

end Sys2Proof.Machine
end

section
/-! What follows from a response `Ok`: the command had every frame accepted (spec/43_bias_sequencer.md R189,
spec/44_power_lifecycle.md R205, spec/70_reset_and_hazards.md R271). -/

namespace Sys2Proof.Machine

/-- A run that ends with `Ok` had every frame accepted, and no frame had failed before it. -/
theorem Runs.accepted_of_ok {skipping : Bool} {ops : List MicroOp} {s t : State} {q : Sequencer} {r : Response}
    (h : Runs skipping ops s q t) (ended : t.seq = none) (rsp : t.rsp = some r) (ok : r.status = .ok) :
    q.firstFail = none ∧ (skipping = false → s.answers = Machine.accepted (sends ops) ++ t.answers) := by
  have failed {q : Sequencer} : q.noted.counted.firstFail ≠ none := by
    show q.firstFail.or (some q.fcnt) ≠ none
    cases q.firstFail <;> nofun
  induction h with
  | @done _ _ q =>
    cases rsp
    refine ⟨?_, fun _ => rfl⟩
    cases first : q.firstFail with
    | none => rfl
    | some k =>
      rw [Sequencer.result, first] at ok
      cases ok
  | skipped _ _ ih => exact ⟨(ih ended rsp).1, nofun⟩
  | nextStage _ ih => exact ⟨(ih ended rsp).1, nofun⟩
  | silent notSend _ _ same _ ih =>
    obtain ⟨first, answers⟩ := ih ended rsp
    exact ⟨first, fun _ => by rw [← same, answers rfl, sends_cons_of_not_send notSend]⟩
  | accepted answer okay _ ih =>
    obtain ⟨first, answers⟩ := ih ended rsp
    obtain ⟨rfl, rfl⟩ := (txOk_iff _ _).mp okay
    refine ⟨first, fun _ => ?_⟩
    rw [answer, sends_cons_send]
    exact congrArg (_ :: ·) (answers rfl)
  | recorded _ _ _ ih => exact absurd (ih ended rsp).1 failed
  | stageEnded _ _ _ ih => exact absurd (ih ended rsp).1 failed
  | aborted _ _ => cases rsp; cases ok
  | waits _ => cases ended
  | refused _ => cases rsp; cases ok

section
variable {i : Instr} {s t : State} {r : Response}

/-- A command that ends has one end. -/
theorem Ends.unique (h : Ends i s t r) {t' : State} {r' : Response} (h' : Ends i s t' r') : t' = t :=
  Host.Outcome.next.inj (h'.1.symm.trans h.1)

/-- A command ends in a state that is ready for the next. -/
theorem Ends.ready (h : Ends i s t r) (shaped : Shaped s) : Ready t := by
  refine ⟨?_, h.2.1⟩
  obtain ⟨r, rfl⟩ | ⟨ops, reply, -, runs⟩ := exec_cases h.1
  · exact shaped
  · exact runs.keeps (P := Shaped) (fun _ _ _ _ _ hl => microOp_shaped hl) (fun _ _ _ hs => hs) shaped

/-- A command with steps that ends with `Ok` met its lifecycle requirement and had every frame accepted. -/
theorem Ends.accepted_of_ok (h : Ends i s t r) (ok : r.status = .ok) {ops : List MicroOp} {reply : Response}
    (plan : planOf s i = some (ops, reply)) :
    (needOf i).met s.attached = true ∧ s.answers = accepted (sends ops) ++ t.answers := by
  obtain ⟨rfl, -⟩ | ⟨noPlan, -, -⟩ | ⟨met, ops', reply', plan', runs⟩ := ends_cases h
  · cases ok
  · cases plan.symm.trans noPlan
  · cases plan.symm.trans plan'
    exact ⟨met, (runs.accepted_of_ok h.2.1 h.2.2 ok).2 rfl⟩

end

/-! ## SETBIAS twice -/

/-- A level is requested twice, both times with `Ok`. -/
structure SetTwice (l : BiasLevel) (s t u : State) (more : List TxEvent) : Prop where
  ready    : Ready s
  attached : s.attached = true
  first    : Ends (.setbias l) s t ⟨.ok, 0#8, 0#32⟩
  second   : Ends (.setbias l) { t with answers := more } u ⟨.ok, 0#8, 0#32⟩

/-- What the second request of a level leaves: the frames of the first again, the cells and the level as they are. -/
def Repeats (s t u : State) : Prop := ∃ es, Logged s t es ∧ Logged t u es ∧ CellsAre t u t.xAt ∧ u.bias = t.bias

/-- The level `l` has one `Program`, which changes the value of the power register by `f`. -/
def SetsPower (l : BiasLevel) (f : Cfg → Value → Value) : Prop :=
  ∀ (s : State) (err : Bool) (acc : BitVec 2) (rest : List TxEvent), Ready s → s.attached = true →
    s.answers = .answer err acc :: rest →
    ∃ t, Ends (.setbias l) s t ⟨if txOk err acc then .ok else .ioError, 0#8, 0#32⟩ ∧
      Programmed s t s.cfg.pwr (f s.cfg (s.xAt s.cfg.pwr)) (txOk err acc) ∧
      t.bias = (if txOk err acc then l else s.bias) ∧ t.pending = s.pending ∧ t.sysclk = s.sysclk ∧
      t.attached = s.attached ∧ t.answers = rest

section
variable {l : BiasLevel} {s t u : State} {more : List TxEvent} (twice : SetTwice l s t u more)
include twice

theorem SetTwice.ready_second : Ready { t with answers := more } := by
  obtain ⟨shaped, idle⟩ := twice.first.ready twice.ready.1
  exact ⟨shaped, idle⟩

theorem SetTwice.answers_first : s.answers = accepted (sends (biasStep s.cfg l .abort)) ++ t.answers :=
  (twice.first.accepted_of_ok rfl rfl).2

theorem SetTwice.answers_second : more = accepted (sends (biasStep t.cfg l .abort)) ++ u.answers :=
  (twice.second.accepted_of_ok rfl rfl).2

theorem SetTwice.attached_second : t.attached = true := (twice.second.accepted_of_ok rfl rfl).1

/-- A level of one `Program`, of the power register, whose value written again is the same. -/
theorem SetTwice.repeats_of_setsPower {f : Cfg → Value → Value} (again : ∀ c v, f c (f c v) = f c v)
    (one : ∀ c, sends (biasStep c l .abort) = 1) (sets : SetsPower l f) : Repeats s t u := by
  have notRst := (Cfg.wf_apart twice.ready.1.1).1.1
  have answers := twice.answers_first
  have answers' := twice.answers_second
  rw [one] at answers answers'
  obtain ⟨t', ends, ⟨⟨hcfg, -⟩, log, cells, -⟩, bias, -⟩ :=
    sets s false 2#2 t.answers twice.ready twice.attached answers
  obtain rfl := twice.first.unique ends
  obtain ⟨u', ends', ⟨-, log', cells', -⟩, bias', -⟩ :=
    sets { t' with answers := more } false 2#2 u.answers twice.ready_second twice.attached_second answers'
  obtain rfl := twice.second.unique ends'
  have pwr : t'.xAt s.cfg.pwr = f s.cfg (s.xAt s.cfg.pwr) := (cells _ notRst).trans (if_pos rfl)
  have same : f t'.cfg (t'.xAt t'.cfg.pwr) = t'.xAt t'.cfg.pwr := by rw [hcfg, pwr, again]
  refine ⟨_, log, ?_, fun a h => (cells' a h).trans ?_, bias'.trans bias.symm⟩
  · rw [Logged, ← pwr, ← hcfg, ← same]
    exact log'
  · by_cases written : a = t'.cfg.pwr
    · exact (if_pos written).trans (written ▸ same)
    · exact if_neg written

/-- Off writes the same constants. -/
theorem SetTwice.repeats_off (off : l = .off) : Repeats s t u := by
  subst off
  have answers := twice.answers_first
  have answers' := twice.answers_second
  obtain ⟨t', ends, ⟨hcfg, -⟩, -, log, cells, -, bias, -⟩ :=
    (setbiasOffPowersDown s twice.ready twice.attached).2 false 2#2 t.answers answers
  obtain rfl := twice.first.unique ends
  obtain ⟨u', ends', -, -, log', cells', -, bias', -⟩ :=
    (setbiasOffPowersDown _ twice.ready_second twice.attached_second).2 false 2#2 u.answers answers'
  obtain rfl := twice.second.unique ends'
  refine ⟨_, log, ?_, fun a h => (cells' a h).trans ?_, bias'.trans bias.symm⟩
  · rw [Logged, ← hcfg]
    exact log'
  · have held : t'.xAt a = if a = s.cfg.pwr then 0xffff#16 else if a = s.cfg.act then 0#16 else s.xAt a :=
      cells a (hcfg ▸ h)
    simp only [hcfg]
    by_cases pwr : a = s.cfg.pwr
    · rw [if_pos pwr] at held ⊢
      exact held.symm
    · rw [if_neg pwr] at held ⊢
      by_cases act : a = s.cfg.act
      · rw [if_pos act] at held ⊢
        exact held.symm
      · exact if_neg act

/-- Prepare writes nothing. -/
theorem SetTwice.repeats_prepare (prepare : l = .prepare) : Repeats s t u := by
  subst prepare
  have run := setbiasPrepareOnlyRecords s twice.ready twice.attached
  have run' := setbiasPrepareOnlyRecords _ twice.ready_second twice.attached_second
  cases Host.Outcome.next.inj (twice.first.1.symm.trans run)
  cases Host.Outcome.next.inj (twice.second.1.symm.trans run')
  exact ⟨[], (List.append_nil _).symm, (List.append_nil _).symm, fun _ _ => rfl, rfl⟩

end

/-- Settles O50: the second request writes what the cells hold already. -/
theorem setbiasTwiceRepeats : Obligations.SetbiasTwiceRepeats := by
  intro l s t u more es ready hatt first log second
  have twice : SetTwice l s t u more := ⟨ready, hatt, first, second⟩
  have repeats : Repeats s t u := by
    cases l with
    | on =>
      exact twice.repeats_of_setsPower (f := fun c v => v &&& ~~~c.standbyMask)
        (fun c v => by rw [BitVec.and_assoc, BitVec.and_self]) (fun _ => rfl) setbiasOnClearsStandby
    | standby =>
      exact twice.repeats_of_setsPower (f := fun c v => v ||| c.standbyMask)
        (fun c v => by rw [BitVec.or_assoc, BitVec.or_self]) (fun _ => rfl) setbiasStandbySetsStandby
    | prepare => exact twice.repeats_prepare rfl
    | off => exact twice.repeats_off rfl
  obtain ⟨es', log', later⟩ := repeats
  obtain rfl : es' = es := List.append_cancel_left (log'.symm.trans log)
  exact later

/-! ## SUSPEND and RESUME -/

/-- What a SUSPEND leaves that ends with `Ok`. -/
theorem suspend_ok {s t : State} (ready : Ready s) (h : Ends .suspend s t ⟨.ok, 0#8, 0#32⟩) :
    t.cfg = s.cfg ∧ t.pending = s.bias ∧ t.xAt s.cfg.pwr = 0xffff#16 := by
  have notRst := (Cfg.wf_apart ready.1.1).1.1
  obtain ⟨met, answers⟩ := h.accepted_of_ok rfl rfl
  obtain ⟨t', ends, ports, -, -, cells, -, pending, -⟩ :=
    (suspendPowersDown s ready).2.2 false 2#2 t.answers met answers
  obtain rfl := h.unique ends
  exact ⟨ports.cfg, pending, (cells _ notRst).trans (if_pos rfl)⟩

/-- What a RESUME leaves that ends with `Ok`. -/
theorem resume_ok {s t : State} (ready : Ready s) (h : Ends .resume s t ⟨.ok, 0#8, 0#32⟩) :
    t.cfg = s.cfg ∧ t.bias = s.pending ∧
      (∃ es, Logged s t ((replayAddrs s.cfg).map (fun a => okEntry a (s.xAt a)) ++ es)) ∧
      (s.pending = .on →
        t.xAt s.cfg.pwr = (s.xAt s.cfg.pwr ||| s.cfg.standbyMask) &&& ~~~s.cfg.standbyMask) := by
  have notRst := (Cfg.wf_apart ready.1.1).1.1
  obtain ⟨met, answers⟩ := h.accepted_of_ok rfl rfl
  simp only [sends_append, sends_replay ready.1.1, sends_cons_of_not_send (op := .stage) rfl, sends_biasStep] at answers
  obtain ⟨t', ends, ports, -, log, cells, -, bias, -⟩ := (resumeRestoresPending s ready).2 t.answers met answers
  obtain rfl := h.unique ends
  rw [List.append_assoc] at log
  refine ⟨ports.cfg, bias, ⟨_, log⟩, fun on => (cells _ notRst).trans ?_⟩
  simp only [on, if_true]

/-- Settles O56: the SUSPEND saved the level in `pending`, and the RESUME restored it. -/
theorem suspendThenResumeRestoresBias : Obligations.SuspendThenResumeRestoresBias := by
  intro s t m u ready suspended ready' _ pending resumed
  obtain ⟨-, saved, -⟩ := suspend_ok ready suspended
  obtain ⟨-, restored, log, -⟩ := resume_ok ready' resumed
  exact ⟨restored.trans (pending.trans saved), log⟩

/-- Settles O57: the SUSPEND wrote all ones, and the RESUME set and cleared the standby bit of them. -/
theorem powerBitsLostBySuspend : Obligations.PowerBitsLostBySuspend := by
  intro s t u more ready level suspended resumed
  obtain ⟨hcfg, saved, ones⟩ := suspend_ok ready suspended
  have ready' : Ready { t with answers := more } := by
    obtain ⟨shaped, idle⟩ := suspended.ready ready.1
    exact ⟨shaped, idle⟩
  obtain ⟨hcfg', -, -, cell⟩ := resume_ok ready' resumed
  have power : t.xAt t.cfg.pwr = 0xffff#16 := by rw [hcfg, ones]
  have masked (m : Value) : (0xffff#16 ||| m) &&& ~~~m = 0xffff#16 &&& ~~~m :=
    congrArg (· &&& ~~~m) (BitVec.allOnes_or (w := 16))
  rw [show u.cfg = t.cfg from hcfg', ← masked, ← power]
  exact cell (saved.trans level)

end Sys2Proof.Machine
end
